-- ==== Sys2Proof/Word.lean ====
section
/-! DEFINITION. The word types of the interface and the two conversions every file uses.
Operand words are 32 bits, unsigned; cycle-count fields are 8 bits, unsigned (R7, R14, R43). -/

namespace Sys2Proof

/-- A request word or a 32-bit response field (R14, R43). -/
abbrev Word := BitVec 32

/-- An 8-bit cycle-count field (R19, R20, R52). -/
abbrev Byte := BitVec 8

end Sys2Proof
end

