-- ==== Sys2Proof/Config.lean ====
section
/-! DEFINITION. What the spec leaves to the configuration of the model: the four named parameters of
R6 with the values the spec takes, and the one free value (the ungated target count of R105). -/

namespace Sys2Proof

/-- The model parameters of R6. They are fixed for a machine: neither reset nor any request changes
them (R38). Durations are counts of 10 ps units (R10).
`SDA_HOLD_BIT_POS` is a position inside the 32-bit field `SDAHoldTime` (R19), hence `Fin 32`
(DEDUCED, safe: log entry 7). -/
structure Params where
  /-- start-condition-setup minimum, read by the Pure-I3C bus-free count (R88) -/
  TCAS_MIN : Nat
  /-- I2C period below which the Fast-Mode-Plus floor is selected (R86) -/
  TFM_MIN : Nat
  /-- bit position of the SDA-hold flag in `SDAHoldTime` (R53) -/
  SDA_HOLD_BIT_POS : Fin 32
  /-- whether COMPUTE_TGT applies the 0 to 255 gate (R105) -/
  TARGET_RANGE_GATE : Bool
deriving DecidableEq, Repr

/-- The values this spec takes (R6; decisions D16, D19, D20, D23). Three of them are marked in the
spec as general knowledge (PRESUMED, unsafe: log entry 7); no statement needs one of them. -/
def Params.standard : Params where
  TCAS_MIN := 3840
  TFM_MIN := 250000
  SDA_HOLD_BIT_POS := 28
  TARGET_RANGE_GATE := true

/-- The free value: the 8-bit draw of an ungated COMPUTE_TGT whose count lies outside [0, 255]
(R105, 93_implementation_defined.md). It has no body; the n-th draw of a run is `freeByte n`
(log entry 6). -/
opaque Config.freeByte : Nat → Byte

end Sys2Proof
end

