-- ==== Sys2Proof/Syntax.lean ====
section
/-! DEFINITION. The request as words, and the request as an instruction: one constructor of `Instr`
per row of the opcode table (R47, R59). -/

namespace Sys2Proof

/-- The words of one request, in the order R47 lists them. One format and one length (R56). -/
structure Request where
  /-- command word: bit 0 selects the operation, bit 1 is BUSTYPE, the rest is reserved -/
  CMD : Word
  /-- reference-clock frequency in Hz -/
  CLK : Word
  /-- desired I3C frequency in Hz -/
  F3 : Word
  /-- desired I2C frequency in Hz -/
  F2 : Word
  /-- duty cycle in percent -/
  DUTY : Word
deriving DecidableEq, Repr

/-- "enumerated {PureI3C, Mixed}" (R15, R48). -/
inductive BusType where
  | pureI3C
  | mixed
deriving DecidableEq, Repr

/-- The two operations (R2). Every bit of a request that the command word leaves to the operation is an
argument, so that encoding loses none of them; COMPUTE_TGT carries the words it ignores (R103). -/
inductive Instr where
  /-- COMPUTE_CTRL (R69) -/
  | computeCtrl (bus : BusType) (clk f3 f2 duty : Word)
  /-- COMPUTE_TGT (R100); `b` is the ignored bit CMD[1] -/
  | computeTgt (b : Bool) (clk f3 f2 duty : Word)
deriving DecidableEq, Repr

end Sys2Proof
end

