-- ==== Sys2Proof/WellFormed.lean ====
section
/-! DEFINITION. The checks on terms: reserved command bits, and the range the spec gives a parameter. -/

namespace Sys2Proof

/-- A request is well formed when bits [31:2] of its command word are 0 (R47, R50). Every value of an
operand word is legal (R51). -/
def Request.wf (q : Request) : Bool :=
  q.CMD.extractLsb 31 2 == 0

/-- Every instruction term is well formed: an operand may hold any 32-bit value, 0 and duties above 50
included, and it is the operation that rejects it, not the decoder (R51). -/
def Instr.wf : Instr → Bool
  | .computeCtrl _ _ _ _ _ => true
  | .computeTgt _ _ _ _ _ => true

/-- "must lie in [411, 4576] to reproduce the source's scenario 1" (R6, R88). The operations do not
test it. -/
def Params.wf (prm : Params) : Bool :=
  decide (411 ≤ prm.TCAS_MIN) && decide (prm.TCAS_MIN ≤ 4576)

end Sys2Proof
end

