-- ==== Sys2Proof/Decode.lean ====
section
/-! DEFINITION. The decoder (R49, R50), the opcode map (R59), the encoder (R47, R48), and the reading
of a request from the bits of an opcode-table word. -/

namespace Sys2Proof

/-- Why words are no request. -/
inductive DecodeError where
  /-- a bit of CMD[31:2] is set (R50) -/
  | reservedCommandBits
  /-- not the five words of the one request format (R47, R56) -/
  | notFiveWords
deriving DecidableEq, Repr

/-- BusType of the bit `CMD.B` (R48). -/
def busOfBit (b : Bool) : BusType :=
  if b then .mixed else .pureI3C

/-- The bit `CMD.B` of a BusType (R48). -/
def bitOfBus : BusType → Bool
  | .pureI3C => false
  | .mixed => true

/-- Operation selection (R49). Operand words are passed on whole and unchecked (R51). -/
def decode (q : Request) : Except DecodeError Instr :=
  if q.CMD.extractLsb 31 2 ≠ 0 then .error .reservedCommandBits
  else if q.CMD.getLsbD 0 = false then
    .ok (.computeCtrl (busOfBit (q.CMD.getLsbD 1)) q.CLK q.F3 q.F2 q.DUTY)
  else
    .ok (.computeTgt (q.CMD.getLsbD 1) q.CLK q.F3 q.F2 q.DUTY)

/-- A list of words is a request when it has exactly five (R47, R56). -/
def requestOfWords : List Word → Except DecodeError Request
  | [cmd, clk, f3, f2, duty] => .ok ⟨cmd, clk, f3, f2, duty⟩
  | _ => .error .notFiveWords

/-- The decoder on any list of words. -/
def decodeWords (ws : List Word) : Except DecodeError Instr :=
  match requestOfWords ws with
  | .ok q => decode q
  | .error e => .error e

/-- The words of a request in the order of R47. -/
def Request.words (q : Request) : List Word :=
  [q.CMD, q.CLK, q.F3, q.F2, q.DUTY]

/-- One row of the opcode map (R59). -/
structure OpcodeRow where
  mnemonic : String
  cmdMatch : Word
  cmdMask : Word
deriving DecidableEq, Repr

/-- The opcode map (R59). -/
def opcodeTable : List OpcodeRow :=
  [⟨"COMPUTE_CTRL", 0x00000000, 0xFFFFFFFD⟩, ⟨"COMPUTE_TGT", 0x00000001, 0xFFFFFFFD⟩]

/-- A command word falls under a row when its masked bits are the row's (R59). -/
def OpcodeRow.covers (r : OpcodeRow) (cmd : Word) : Bool :=
  cmd &&& r.cmdMask == r.cmdMatch

/-- The row an instruction stands under. -/
def Instr.mnemonic : Instr → String
  | .computeCtrl _ _ _ _ _ => "COMPUTE_CTRL"
  | .computeTgt _ _ _ _ _ => "COMPUTE_TGT"

/-- The command word with `R` in bit 0 and `B` in bit 1 (R47). -/
def commandWord (r b : Bool) : Word :=
  (if r then 1 else 0) ||| (if b then 2 else 0)

/-- The encoder: the words of an instruction (R47, R48). -/
def encode : Instr → Request
  | .computeCtrl bus clk f3 f2 duty => ⟨commandWord false (bitOfBus bus), clk, f3, f2, duty⟩
  | .computeTgt b clk f3 f2 duty => ⟨commandWord true b, clk, f3, f2, duty⟩

/-- Word `k` of a request whose bits are numbered from bit 0 of CMD: bits 32k+31 to 32k (log entry 13). -/
def tableWord (w k : Nat) : Word :=
  BitVec.ofNat 32 (w / 2 ^ (32 * k))

/-- The request of the low `nbits` bits of an opcode-table word: CMD first, the operand words above it,
every missing bit 0. -/
def requestOfTableWord (nbits w : Nat) : Request :=
  let v := w % 2 ^ nbits
  ⟨tableWord v 0, tableWord v 1, tableWord v 2, tableWord v 3, tableWord v 4⟩

/-- What the decoder reads from a word numbered as the opcode table numbers it. A value with bits above
the 160 of a request is none. -/
def decodeTableWord (nbits w : Nat) : Option Instr :=
  if w % 2 ^ nbits < 2 ^ 160 then
    match decodeWords (requestOfTableWord nbits w).words with
    | .ok i => some i
    | .error _ => none
  else none

end Sys2Proof
end

