-- ==== Sys2Proof/Machine/State.lean ====
section
/-! DEFINITION. The state as plain data: the parameters, the events at the interface, the response
(out.STATUS, out.CFG), the hosts' records, and the counter of the free value. The block has no
register file, program counter, control register or memory (R22, R23, R24, R39). -/

namespace Sys2Proof.Machine

/-- out.STATUS, the block's only flag (R21, R55). -/
inductive Status where
  | ok
  | error
deriving DecidableEq, Repr

/-- The controller's configuration record (R19). -/
structure ControllerTimingConfig where
  SCLPPLowDuration : Byte
  SCLI3CHighDuration : Byte
  SCLODLowDuration : Byte
  SCLI2CHighDuration : Byte
  BusFreeDuration : Byte
  BusIdleDuration : Byte
  /-- one flag at bit `SDA_HOLD_BIT_POS`, every other bit 0 (R53) -/
  SDAHoldTime : Word
deriving DecidableEq, Repr

/-- The target's configuration record (R20). -/
structure TargetTimingConfig where
  BusAvailableDuration : Byte
deriving DecidableEq, Repr

/-- A configuration that is not *none* (R18). -/
inductive TimingConfig where
  | controller (c : ControllerTimingConfig)
  | target (c : TargetTimingConfig)
deriving DecidableEq, Repr

/-- A response: STATUS, and CFG or *none* (R18). -/
structure Response where
  status : Status
  cfg : Option TimingConfig
deriving DecidableEq, Repr

/-- The cause labels of `raise InvalidTiming(cause)` (R107). No response carries one (R106). -/
inductive Cause where
  | zeroFrequency
  | dutyOrPeriod
  | zeroPeriod
  | i2cBelowStandardMode
  | fieldOutOfRange
deriving DecidableEq, Repr

/-- The fields of the two configuration records (R19, R20). -/
inductive CfgField where
  | SCLPPLowDuration
  | SCLI3CHighDuration
  | SCLODLowDuration
  | SCLI2CHighDuration
  | BusFreeDuration
  | BusIdleDuration
  | SDAHoldTime
  | BusAvailableDuration
deriving DecidableEq, Repr

/-- What the outside does at the interface. The number `host` is the model's label for a caller: the
block cannot see it (R115; log entry 4). -/
inductive Event where
  /-- a host issues a request (R12) -/
  | request (host : Nat) (q : Request)
  /-- a host reads a field of a response (R12, R122). The spec does not say which of its responses a read
  refers to; in the model it is the last one it received (DESIGN CHOICE, unsafe: log entry 18) -/
  | read (host : Nat) (field : CfgField)
  /-- the block is reset, between two requests (R119) -/
  | reset
deriving DecidableEq, Repr

/-- A response in the hands of the host that asked for it (R44). -/
structure Delivery where
  host : Nat
  response : Response
deriving DecidableEq, Repr

/-- The value a host read from a field, zero-extended to 32 bits (R7, R43). -/
structure Observation where
  host : Nat
  field : CfgField
  value : Word
deriving DecidableEq, Repr

/-- Why a step stops with a fault. -/
inductive Fault where
  /-- A host reads a field of a configuration that is *none* (R18, R122). Raised by a read event. Safe:
  the model stops where a realisation may return any bits. -/
  | readOfNoneConfiguration
  /-- A host reads a field that the record it received does not have. Raised by a read event. Safe; the
  spec gives such a read no meaning (DESIGN CHOICE, log entry 9). -/
  | readOfOtherRecord
deriving DecidableEq, Repr

/-- Why a step answers that a request has no meaning. -/
inductive Refusal where
  /-- An instruction without a meaning in this model; raised by no arm of `exec` (all have one). Safe. -/
  | notModelled (mnemonic : String)
  /-- A bit of CMD[31:2] is set: the request names no operation and gets no response (R50, R117). Raised by
  serving a request. Safe. -/
  | reservedCommandBits
deriving DecidableEq, Repr

/-- The machine. The hidden datapath values of R37 are local to a meaning and no part of it. -/
structure State where
  /-- the parameters of R6; no event changes them (R38) -/
  params : Params
  /-- the events at the interface, the one served next first; the order is the outside's choice (R42) -/
  events : List Event
  /-- out.STATUS; `none` until a response exists (R21, R38); kept after the response is delivered (DESIGN
  CHOICE, log entry 19) -/
  status : Option Status
  /-- out.CFG; `none` is the spec's *none* (R18, R38); kept after the response is delivered (DESIGN CHOICE,
  log entry 19) -/
  cfg : Option TimingConfig
  /-- the responses delivered so far, oldest first: the observable of a run (R127) -/
  delivered : List Delivery
  /-- the values hosts have read so far, oldest first -/
  observed : List Observation
  /-- how many draws of the free value have been taken; the model's own field (log entry 6) -/
  draws : Nat
deriving DecidableEq, Repr

/-- Right after reset: idle, no event waiting, no response, the parameters at the values of R6 (R38, R118).
`draws` starts at 0 (DESIGN CHOICE, log entry 6). -/
def State.reset : State where
  params := .standard
  events := []
  status := none
  cfg := none
  delivered := []
  observed := []
  draws := 0

end Sys2Proof.Machine
end

