-- ==== Sys2Proof/Machine/Constants.lean ====
section
/-! DEFINITION. The hardwired constants (R24): counts of 10 ps units unless their rule says otherwise. -/

namespace Sys2Proof.Machine

/-- R25: 10 ps units in one second. -/
@[simp] abbrev SEC_TO_10PS : Int := 100000000000

/-- R26: minimum I3C SCL high time, 32 ns. -/
@[simp] abbrev TI3CH_MIN : Int := 3200

/-- R27: open-drain maximum high time, 41 ns. -/
@[simp] abbrev TI3CH_OD_MAX : Int := 4100

/-- R28: open-drain low-time minimum, 200 ns. -/
@[simp] abbrev TI3CL_OD_MIN : Int := 20000

/-- R29: capacitive-settling floor, 350 ns. -/
@[simp] abbrev TCAPA : Int := 35000

/-- R30: Fast-Mode-Plus open-drain low-time floor, 500 ns. -/
@[simp] abbrev TFMPL_OD_MIN : Int := 50000

/-- R31: Fast-Mode open-drain low-time floor, 1300 ns. -/
@[simp] abbrev TFML_OD_MIN : Int := 130000

/-- R32: Standard-Mode minimum period, one period of 100 kHz. -/
@[simp] abbrev TSM_MIN : Int := 1000000

/-- R33: SDA-hold decision point, 6 ns. -/
@[simp] abbrev SDA_HOLD_THRESHOLD : Int := 600

/-- R34: one microsecond (90_conflicts.md C1: not the source's printed literal). -/
@[simp] abbrev ONE_US : Int := 100000

/-- R35: pipeline offset, a number of cycles. -/
@[simp] abbrev IDLE_OFFSET : Int := 2

/-- R36: largest accepted duty cycle, percent. -/
@[simp] abbrev DUTY_MAX : Int := 50

/-- R6: largest value of an 8-bit cycle-count field. -/
@[simp] abbrev FIELD_MAX : Int := 255

end Sys2Proof.Machine
end

