-- ==== Sys2Proof/Machine/Operands.lean ====
section
/-! DEFINITION. The one operand form, the block's only rounding primitive, and the period converter.
All values are unbounded integers (R7; decision D5, log entry 11). -/

namespace Sys2Proof.Machine

/-- An operand word read as an unsigned integer: no sign extension, scaling or shift (R51). -/
def operand (w : Word) : Int :=
  (w.toNat : Int)

/-- Round-half-up division by `d > 0`, with floor division (R8, R63). -/
def divRound (a d : Int) : Int :=
  (a + d / 2) / d

/-- Frequency in Hz to period in 10 ps units; 0 for frequency 0 (R64). -/
def period10ps (f : Word) : Int :=
  if f = 0 then 0 else divRound SEC_TO_10PS (operand f)

/-- The duration a count stands for: `n + 1` reference-clock periods (R11). -/
abbrev realised (p n : Int) : Int :=
  (n + 1) * p

/-- The realised push-pull period of the counts `l` and `h` (R81). -/
abbrev realisedPeriod (p l h : Int) : Int :=
  (l + h + 2) * p

/-- The reference count shared by bus-idle and bus-available: one microsecond less the offset (R90, R104). -/
def oneUs (p : Int) : Int :=
  divRound ONE_US p - IDLE_OFFSET

/-- The 8-bit field of a count the gate has passed (R52, R54). -/
def countField (v : Int) : Byte :=
  BitVec.ofInt 8 v

end Sys2Proof.Machine
end

