-- ==== Sys2Proof/Machine/Flags.lean ====
section
/-! DEFINITION. The tests that decide STATUS: the range gate and the validation checks of COMPUTE_CTRL
in their order; and the SDA-hold flag with its encoding. -/

namespace Sys2Proof.Machine

/-- A count an 8-bit field can hold: the test of the range gate (R91, R105). -/
def inFieldRange (v : Int) : Bool :=
  decide (0 ≤ v) && decide (v ≤ FIELD_MAX)

/-- The range gate over a list of counts (R91). -/
def rangeGate (vs : List Int) : Except Cause Unit :=
  if vs.all inFieldRange then .ok () else .error .fieldOutOfRange

/-- Zero-frequency check (R71). -/
def validateFrequencies (bus : BusType) (clk f3 f2 : Word) : Except Cause Unit :=
  match bus with
  | .pureI3C => if clk = 0 ∨ f3 = 0 then .error .zeroFrequency else .ok ()
  | .mixed => if clk = 0 ∨ f3 = 0 ∨ f2 = 0 then .error .zeroFrequency else .ok ()

/-- Duty-cycle and clock-period check (R72). -/
def validateDutyAndPeriod (duty : Word) (p : Int) : Except Cause Unit :=
  if operand duty > DUTY_MAX ∨ p = 0 then .error .dutyOrPeriod else .ok ()

/-- I2C period check, Mixed bus only (R73). -/
def validateI2cPeriod (bus : BusType) (tod : Int) : Except Cause Unit :=
  match bus with
  | .pureI3C => .ok ()
  | .mixed => if tod > TSM_MIN then .error .i2cBelowStandardMode else .ok ()

/-- The zero checks of COMPUTE_TGT in their order (R101, R102). -/
def validateTarget (clk : Word) : Except Cause Unit :=
  if clk = 0 then .error .zeroFrequency
  else if period10ps clk = 0 then .error .zeroPeriod
  else .ok ()

/-- The SDA-hold flag: set unless the reference period exceeds 6 ns (R89). -/
def sdaHold (p : Int) : Bool :=
  if p > SDA_HOLD_THRESHOLD then false else true

/-- `SDAF << SDA_HOLD_BIT_POS` (R53). -/
def sdaHoldField (prm : Params) (flag : Bool) : Word :=
  (if flag then 1#32 else 0#32) <<< prm.SDA_HOLD_BIT_POS.val

end Sys2Proof.Machine
end

