-- ==== Sys2Proof/Machine/Ops.lean ====
section
/-! DEFINITION. The named operations over the state: writing a response (the commit and the one error),
drawing the free value, handing a response to its host, reading a field of a response, and reset; and
the packed views of a response. -/

namespace Sys2Proof.Machine

/-- Write the whole response of a completed operation at once (R42, R92). -/
def State.commit (s : State) (c : TimingConfig) : State :=
  { s with status := some .ok, cfg := some c }

/-- `raise InvalidTiming(cause)`: STATUS = ERROR and no configuration. The cause is not part of the
response, and nothing is saved or entered (R106, R109, R110). -/
def State.raiseInvalidTiming (s : State) (_cause : Cause) : State :=
  { s with status := some .error, cfg := none }

/-- End an operation with its result. -/
def State.respond (s : State) (result : Except Cause TimingConfig) : State :=
  match result with
  | .ok c => s.commit c
  | .error cause => s.raiseInvalidTiming cause

/-- Take one draw of the free value (R105). -/
def State.draw (s : State) : State :=
  { s with draws := s.draws + 1 }

/-- The response at the output, once one exists (R18, R38): the last one written, delivered or not (DESIGN
CHOICE, log entry 19). -/
def State.response (s : State) : Option Response :=
  match s.status with
  | none => none
  | some st => some ⟨st, s.cfg⟩

/-- Hand the response at the output to the host whose request it answers (R42, R44). STATUS and CFG keep showing
it until the next response or a reset: the spec says that nothing persists (R13, R127) and that there is
no value before the first request (R21, R38), and not what the output shows after a delivery (DESIGN CHOICE,
unsafe for claims about the output between requests: log entry 19). No operation reads it. -/
def State.deliver (s : State) (host : Nat) : State :=
  match s.response with
  | none => s
  | some r => { s with delivered := s.delivered ++ [⟨host, r⟩] }

/-- The events that remain once the next one is taken. -/
def State.withEvents (s : State) (rest : List Event) : State :=
  { s with events := rest }

/-- A host issues a request after those already at the interface (R12). -/
def State.issue (s : State) (host : Nat) (q : Request) : State :=
  s.withEvents (s.events ++ [.request host q])

/-- Drop the event that would be served next: what the outside does with a refused request, which gets
no response (R50, R127; log entry 8). -/
def State.dropEvent (s : State) : State :=
  s.withEvents s.events.tail

/-- Reset: no response exists, nothing else changes (R38, R118, R119). Responses already delivered are in
their hosts' hands, and events not yet served stay at the interface (log entry 10). -/
def State.resetBlock (s : State) : State :=
  { s with status := none, cfg := none }

/-- The last response `host` received: the one a read refers to. The spec says only that hosts read responses
(R12, R18, R122) and not which, once a host has received several (DESIGN CHOICE, unsafe: log entry 18). -/
def lastResponse (host : Nat) : List Delivery → Option Response
  | [] => none
  | d :: ds =>
    match lastResponse host ds with
    | some r => some r
    | none => if d.host = host then some d.response else none

/-- A field of a configuration record, zero-extended to 32 bits; none if the record has no such field. -/
def readField (f : CfgField) (c : TimingConfig) : Option Word :=
  match c with
  | .controller c =>
    match f with
    | .SCLPPLowDuration => some (c.SCLPPLowDuration.setWidth 32)
    | .SCLI3CHighDuration => some (c.SCLI3CHighDuration.setWidth 32)
    | .SCLODLowDuration => some (c.SCLODLowDuration.setWidth 32)
    | .SCLI2CHighDuration => some (c.SCLI2CHighDuration.setWidth 32)
    | .BusFreeDuration => some (c.BusFreeDuration.setWidth 32)
    | .BusIdleDuration => some (c.BusIdleDuration.setWidth 32)
    | .SDAHoldTime => some c.SDAHoldTime
    | .BusAvailableDuration => none
  | .target c =>
    match f with
    | .BusAvailableDuration => some (c.BusAvailableDuration.setWidth 32)
    | .SCLPPLowDuration => none
    | .SCLI3CHighDuration => none
    | .SCLODLowDuration => none
    | .SCLI2CHighDuration => none
    | .BusFreeDuration => none
    | .BusIdleDuration => none
    | .SDAHoldTime => none

/-- Read a field of a response; of a configuration that is *none* this is a fault (R18, R122), and a host
that has no response yet has none to read (log entry 14). -/
def readResponse (f : CfgField) (r : Option Response) : Except Fault Word :=
  match r with
  | none => .error .readOfNoneConfiguration
  | some r =>
    match r.cfg with
    | none => .error .readOfNoneConfiguration
    | some c =>
      match readField f c with
      | none => .error .readOfOtherRecord
      | some v => .ok v

/-- A host reads a field. That the read refers to the response it last received is the model's choice
(DESIGN CHOICE, unsafe: log entry 18); that it has no side effect on the block is R43. -/
def State.hostRead (s : State) (host : Nat) (f : CfgField) : Host.Outcome State Fault Refusal :=
  match readResponse f (lastResponse host s.delivered) with
  | .ok v => .next { s with observed := s.observed ++ [⟨host, f, v⟩] }
  | .error e => .fault e

/-- TIMING0 of a controller's packed view (R57). -/
def ControllerTimingConfig.timing0 (c : ControllerTimingConfig) : Word :=
  c.SCLPPLowDuration.setWidth 32
    ||| c.SCLI3CHighDuration.setWidth 32 <<< 8
    ||| c.SCLODLowDuration.setWidth 32 <<< 16
    ||| c.SCLI2CHighDuration.setWidth 32 <<< 24

/-- TIMING1 of a controller's packed view (R57). A flag position inside another field is or-ed into it
(log entry 12). -/
def ControllerTimingConfig.timing1 (c : ControllerTimingConfig) : Word :=
  c.BusIdleDuration.setWidth 32
    ||| c.BusFreeDuration.setWidth 32 <<< 16
    ||| c.SDAHoldTime

/-- TIMING1 of a target's packed view (R58). -/
def TargetTimingConfig.timing1 (c : TargetTimingConfig) : Word :=
  c.BusAvailableDuration.setWidth 32

end Sys2Proof.Machine
end

