-- ==== Sys2Proof/Machine/Controller.lean ====
section
/-! DEFINITION. COMPUTE_CTRL (R69): the counts of R76 to R90 step by step, the gate and the commit. The
arguments `p`, `tpp`, `tod` are ClockPeriod and the two bus periods (R65, R74), `d` the duty cycle. -/

namespace Sys2Proof.Machine

/-- Pure-I3C ideal high-phase duration (R76). -/
def pureIdealHigh (tpp d : Int) : Int :=
  divRound (tpp * d) 100

/-- Pure-I3C high count from the duty cycle (R76). -/
def pureHighFromDuty (p tpp d : Int) : Int :=
  divRound (pureIdealHigh tpp d) p - 1

/-- Whether the minimum-high override replaces that count (R77). -/
def pureMinPath (p tpp d : Int) : Bool :=
  decide (realised p (pureHighFromDuty p tpp d) < TI3CH_MIN)

/-- Pure-I3C high count (R76, R77). -/
def pureHigh (p tpp d : Int) : Int :=
  if pureMinPath p tpp d then divRound TI3CH_MIN p - 1 else pureHighFromDuty p tpp d

/-- Pure-I3C low count before correction (R78). -/
def pureLow (p tpp d : Int) : Int :=
  if pureMinPath p tpp d then divRound (tpp - realised p (pureHigh p tpp d)) p - 1
  else divRound (tpp - pureIdealHigh tpp d) p - 1

/-- Mixed starting high count, from the open-drain ceiling (R79). -/
def mixedHighStart (p : Int) : Int :=
  divRound TI3CH_OD_MAX p - 1

/-- Mixed high count: the start, clamped by at most one count (R79). -/
def mixedHigh (p : Int) : Int :=
  if realised p (mixedHighStart p) < TI3CH_MIN then mixedHighStart p + 1
  else if realised p (mixedHighStart p) > TI3CH_OD_MAX then mixedHighStart p - 1
  else mixedHighStart p

/-- Mixed low count before correction (R80). -/
def mixedLow (p tpp : Int) : Int :=
  divRound (tpp - realised p (mixedHigh p)) p - 1

/-- SCL high count of the selected branch (R75). -/
def sclHigh (bus : BusType) (p tpp d : Int) : Int :=
  match bus with
  | .pureI3C => pureHigh p tpp d
  | .mixed => mixedHigh p

/-- SCL low count of the selected branch, before correction (R75). -/
def sclLow (bus : BusType) (p tpp d : Int) : Int :=
  match bus with
  | .pureI3C => pureLow p tpp d
  | .mixed => mixedLow p tpp

/-- Correction, first check: overshoot (R81). -/
def correctOvershoot (p tpp h l : Int) : Int :=
  if realisedPeriod p l h - tpp > p / 2 then l - 1 else l

/-- Correction, second check: undershoot (R82). -/
def correctUndershoot (p tpp h l : Int) : Int :=
  if tpp - realisedPeriod p l h > p / 2 then l + 1 else l

/-- Both checks, the second on the low count the first left (R81, R82). -/
def correctLow (p tpp h l : Int) : Int :=
  correctUndershoot p tpp h (correctOvershoot p tpp h l)

/-- Pure-I3C open-drain low, base value; `l` is the corrected low count (R83). -/
def odLowPureBase (p tpp l : Int) : Int :=
  if tpp < TI3CL_OD_MIN then divRound TI3CL_OD_MIN p - 1 else l

/-- Pure-I3C open-drain low with the capacitive-settling floor (R84). -/
def odLowPure (p tpp l : Int) : Int :=
  if realised p (odLowPureBase p tpp l) < TCAPA then divRound TCAPA p + 1
  else odLowPureBase p tpp l

/-- Mixed open-drain low from the I2C duty split (R85). -/
def odLowMixedSplit (p tod d : Int) : Int :=
  divRound (tod - divRound (tod * d) 100) p - 1

/-- The open-drain floor the I2C period selects (R86). -/
def odFloor (prm : Params) (tod : Int) : Int :=
  if tod < prm.TFM_MIN then TFMPL_OD_MIN else TFML_OD_MIN

/-- Mixed open-drain low with that floor (R86). -/
def odLowMixed (prm : Params) (p tod d : Int) : Int :=
  if realised p (odLowMixedSplit p tod d) < odFloor prm tod then
    divRound (odFloor prm tod) p - 1
  else odLowMixedSplit p tod d

/-- Open-drain low of the selected branch (R75). -/
def odLow (prm : Params) (bus : BusType) (p tpp tod d l : Int) : Int :=
  match bus with
  | .pureI3C => odLowPure p tpp l
  | .mixed => odLowMixed prm p tod d

/-- I2C-mode SCL high count (R87). -/
def i2cHigh (bus : BusType) (p tod odl : Int) : Int :=
  match bus with
  | .pureI3C => 0
  | .mixed => divRound (tod - realised p odl) p - 1

/-- Bus-free count (R88). -/
def busFree (prm : Params) (bus : BusType) (p odl : Int) : Int :=
  match bus with
  | .pureI3C => divRound ((prm.TCAS_MIN : Int) + TCAPA) (2 * p) + 1
  | .mixed => divRound (realised p odl + TCAPA) (2 * p)

/-- The six gated counts, before they are written to 8-bit fields. -/
structure Counts where
  L : Int
  H : Int
  ODL : Int
  I2CH : Int
  FREE : Int
  IDLE : Int
deriving DecidableEq, Repr

/-- The counts of a validated request (R69, from the SCL step to `one_us`). -/
def ctrlCounts (prm : Params) (bus : BusType) (p tpp tod d : Int) : Counts :=
  let h := sclHigh bus p tpp d
  let l := correctLow p tpp h (sclLow bus p tpp d)
  let odl := odLow prm bus p tpp tod d l
  { L := l, H := h, ODL := odl, I2CH := i2cHigh bus p tod odl, FREE := busFree prm bus p odl,
    IDLE := oneUs p }

/-- The record of counts that passed the gate (R92). -/
def Counts.record (c : Counts) (prm : Params) (p : Int) : ControllerTimingConfig where
  SCLPPLowDuration := countField c.L
  SCLI3CHighDuration := countField c.H
  SCLODLowDuration := countField c.ODL
  SCLI2CHighDuration := countField c.I2CH
  BusFreeDuration := countField c.FREE
  BusIdleDuration := countField c.IDLE
  SDAHoldTime := sdaHoldField prm (sdaHold p)

/-- The counts the gate looks at (R91). -/
def Counts.gated (c : Counts) : List Int :=
  [c.L, c.H, c.ODL, c.I2CH, c.FREE, c.IDLE]

/-- COMPUTE_CTRL from validation to the record: the checks in order, then the counts and the gate
(R69, R70). -/
def ctrlResult (prm : Params) (bus : BusType) (clk f3 f2 duty : Word) :
    Except Cause ControllerTimingConfig := do
  validateFrequencies bus clk f3 f2
  validateDutyAndPeriod duty (period10ps clk)
  validateI2cPeriod bus (period10ps f2)
  let c := ctrlCounts prm bus (period10ps clk) (period10ps f3) (period10ps f2) (operand duty)
  rangeGate c.gated
  return c.record prm (period10ps clk)

/-- COMPUTE_CTRL (R69): commit the record, or raise InvalidTiming. -/
def execComputeCtrl (bus : BusType) (clk f3 f2 duty : Word) (s : State) :
    Host.Outcome State Fault Refusal :=
  .next (s.respond ((ctrlResult s.params bus clk f3 f2 duty).map .controller))

end Sys2Proof.Machine
end

