-- ==== Sys2Proof/Machine/Target.lean ====
section
/-! DEFINITION. COMPUTE_TGT (R100). -/

namespace Sys2Proof.Machine

/-- Whether the answer for `clk` is the unspecified value: the gate is off and the count of a non-zero
clock does not fit a field (R105). -/
def targetDraws (prm : Params) (clk : Word) : Bool :=
  decide (clk ≠ 0) && !prm.TARGET_RANGE_GATE && !inFieldRange (oneUs (period10ps clk))

/-- COMPUTE_TGT from validation to the record. `free` is the unspecified 8-bit value of an ungated count
outside [0, 255] (R105). -/
def targetResult (prm : Params) (free : Byte) (clk : Word) : Except Cause TargetTimingConfig := do
  validateTarget clk
  let a := oneUs (period10ps clk)
  if inFieldRange a then return ⟨countField a⟩
  else if prm.TARGET_RANGE_GATE then throw .fieldOutOfRange
  else return ⟨free⟩

/-- COMPUTE_TGT (R100): commit the record, or raise InvalidTiming. The bit CMD[1] and the words F3, F2 and
DUTY are not read (R103). -/
def execComputeTgt (_b : Bool) (clk _f3 _f2 _duty : Word) (s : State) :
    Host.Outcome State Fault Refusal :=
  let answer := (targetResult s.params (Config.freeByte s.draws) clk).map .target
  if targetDraws s.params clk then .next (s.draw.respond answer) else .next (s.respond answer)

end Sys2Proof.Machine
end

