-- ==== Sys2Proof/Machine/Dispatch.lean ====
section
/-! DEFINITION. One arm per constructor of `Instr`. -/

namespace Sys2Proof.Machine

def exec (i : Instr) (s : State) : Host.Outcome State Fault Refusal :=
  match i with
  | .computeCtrl bus clk f3 f2 duty => Sys2Proof.Machine.execComputeCtrl bus clk f3 f2 duty s
  | .computeTgt b clk f3 f2 duty => Sys2Proof.Machine.execComputeTgt b clk f3 f2 duty s

end Sys2Proof.Machine
end

