-- ==== Sys2Proof/Machine/Serve.lean ====
section
/-! DEFINITION. Serving one event: decode, execute and deliver a request; a host's read; reset. -/

namespace Sys2Proof.Machine

/-- Hand the response of an executed request to its host. -/
def deliverOutcome (host : Nat) (o : Host.Outcome State Fault Refusal) :
    Host.Outcome State Fault Refusal :=
  match o with
  | .next t => .next (t.deliver host)
  | .fault e => .fault e
  | .refused r => .refused r

/-- Serve one request as one atomic step: decode it, run its operation, deliver the response (R42, R124).
A command word with a reserved bit set is refused and gets no response (R50, R117). -/
def serveRequest (host : Nat) (q : Request) (s : State) : Host.Outcome State Fault Refusal :=
  match decode q with
  | .error _ => .refused .reservedCommandBits
  | .ok i => deliverOutcome host (exec i s)

/-- Serve one event. -/
def serveEvent (e : Event) (s : State) : Host.Outcome State Fault Refusal :=
  match e with
  | .request host q => serveRequest host q s
  | .read host f => s.hostRead host f
  | .reset => .next s.resetBlock

/-- The block with no event at its interface is idle: nothing changes (R118; log entry 3). -/
def idle (s : State) : Host.Outcome State Fault Refusal :=
  .next s

/-- Put a request in front of every other event. -/
def State.issueNext (s : State) (host : Nat) (q : Request) : State :=
  s.withEvents (.request host q :: s.events)

end Sys2Proof.Machine
end

