-- ==== Sys2Proof/Machine/Step.lean ====
section
/-! DEFINITION. One step of the machine: the first event at the interface, served whole (R124). -/

namespace Sys2Proof.Machine

/-- Take the first event and serve it; with none, stay idle. -/
def step (s : State) : Host.Outcome State Fault Refusal :=
  match s.events with
  | [] => idle s
  | e :: rest => serveEvent e (s.withEvents rest)

/-- `s` with the request of an opcode-table word as its first event, issued by host 0 (log entry 2). -/
def State.withFetchWord (s : State) (nbits w : Nat) : State :=
  s.issueNext 0 (requestOfTableWord nbits w)

end Sys2Proof.Machine
end

