-- ==== Sys2Proof/Machine/Assembler.lean ====
section
/-! DEFINITION. The written form of a request (R60, R61): the three lines and the pseudo-instruction,
their words, and the reading of a line of text. -/

namespace Sys2Proof.Machine

/-- A line of assembler (R60) or the pseudo-instruction that leaves `f2` out (R61). -/
inductive AsmLine where
  | ctrlPure (clk f3 f2 duty : Word)
  | ctrlMixed (clk f3 f2 duty : Word)
  | tgt (clk : Word)
  | ctrlPureShort (clk f3 duty : Word)
deriving DecidableEq, Repr

/-- The request a line stands for (R60, R61). -/
def assemble : AsmLine → Request
  | .ctrlPure clk f3 f2 duty => ⟨0x0, clk, f3, f2, duty⟩
  | .ctrlMixed clk f3 f2 duty => ⟨0x2, clk, f3, f2, duty⟩
  | .tgt clk => ⟨0x1, clk, 0, 0, 0⟩
  | .ctrlPureShort clk f3 duty => ⟨0x0, clk, f3, 0, duty⟩

/-- The instruction a line stands for. -/
def AsmLine.instr : AsmLine → Instr
  | .ctrlPure clk f3 f2 duty => .computeCtrl .pureI3C clk f3 f2 duty
  | .ctrlMixed clk f3 f2 duty => .computeCtrl .mixed clk f3 f2 duty
  | .tgt clk => .computeTgt false clk 0 0 0
  | .ctrlPureShort clk f3 duty => .computeCtrl .pureI3C clk f3 0 duty

/-- Value of a digit in base 10 or 16. -/
def digitValue (base : Nat) (c : Char) : Option Nat :=
  let n := c.toNat
  let v :=
    if 48 ≤ n ∧ n ≤ 57 then n - 48
    else if 65 ≤ n ∧ n ≤ 70 then n - 55
    else if 97 ≤ n ∧ n ≤ 102 then n - 87
    else base
  if v < base then some v else none

/-- Digits with an underscore allowed between two of them; `prev` says that a digit came last. -/
def digits (base : Nat) : List Char → Nat → Bool → Option Nat
  | [], acc, prev => if prev then some acc else none
  | c :: cs, acc, prev =>
    if c = '_' then (if prev then digits base cs acc false else none)
    else
      match digitValue base c with
      | some v => digits base cs (acc * base + v) true
      | none => none

/-- An operand: decimal with underscores between digit groups, or hexadecimal with `0x`; it must fit
32 bits (R60, R51). -/
def asmOperand (cs : List Char) : Option Word :=
  let value :=
    match cs with
    | '0' :: 'x' :: hex => digits 16 hex 0 false
    | dec => digits 10 dec 0 false
  match value with
  | some v => if v < 2 ^ 32 then some (BitVec.ofNat 32 v) else none
  | none => none

/-- The pieces of a text between occurrences of a separator. -/
def splitAt (sep : Char) : List Char → List (List Char)
  | [] => [[]]
  | c :: cs =>
    match splitAt sep cs with
    | [] => [[c]]
    | p :: ps => if c = sep then [] :: p :: ps else (c :: p) :: ps

/-- A text without its spaces and tabs. -/
def dropBlanks (cs : List Char) : List Char :=
  cs.filter fun c => c ≠ ' ' ∧ c ≠ '\t'

/-- A text without the spaces and tabs it begins with. -/
def dropLeadingBlanks (cs : List Char) : List Char :=
  cs.dropWhile fun c => c = ' ' ∨ c = '\t'

/-- A line up to its comment. -/
def withoutComment (cs : List Char) : List Char :=
  cs.takeWhile (· ≠ ';')

/-- The operands of a comma-separated list. -/
def asmOperands (cs : List Char) : Option (List Word) :=
  (splitAt ',' cs).mapM fun o => asmOperand (dropBlanks o)

/-- The text after a given beginning. -/
def afterStart (start cs : List Char) : Option (List Char) :=
  if cs.take start.length = start then some (cs.drop start.length) else none

/-- A line in the mnemonic spelling (R60, R61). -/
def parseMnemonic (line : List Char) : Option AsmLine :=
  let cs := dropLeadingBlanks (withoutComment line)
  let name := cs.takeWhile fun c => c ≠ ' ' ∧ c ≠ '\t'
  match asmOperands (cs.drop name.length) with
  | none => none
  | some ops =>
    if name = "COMPUTE_CTRL.PURE".toList then
      match ops with
      | [clk, f3, f2, duty] => some (.ctrlPure clk f3 f2 duty)
      | [clk, f3, duty] => some (.ctrlPureShort clk f3 duty)
      | _ => none
    else if name = "COMPUTE_CTRL.MIXED".toList then
      match ops with
      | [clk, f3, f2, duty] => some (.ctrlMixed clk f3 f2 duty)
      | _ => none
    else if name = "COMPUTE_TGT".toList then
      match ops with
      | [clk] => some (.tgt clk)
      | _ => none
    else none

/-- A named argument `name=value` of the call spelling. -/
def namedOperand (name : String) (cs : List Char) : Option Word :=
  match afterStart (name.toList ++ ['=']) cs with
  | some v => asmOperand v
  | none => none

/-- The source's spelling of a request as a call, its arguments in the source's order (R60). -/
def parseCall (line : List Char) : Option AsmLine :=
  let cs := dropBlanks (withoutComment line)
  match afterStart "ComputeControllerTiming(".toList cs, afterStart "ComputeTargetTiming(".toList cs with
  | some rest, _ =>
    match splitAt ',' rest with
    | [a, b, c, d, e] =>
      match namedOperand "clockSrcFreq" a, namedOperand "i3cFreq" b, namedOperand "i2cFreq" c,
          namedOperand "dutyCycle" d with
      | some clk, some f3, some f2, some duty =>
        if e = "busType=PureI3C)".toList then some (.ctrlPure clk f3 f2 duty)
        else if e = "busType=Mixed)".toList then some (.ctrlMixed clk f3 f2 duty)
        else none
      | _, _, _, _ => none
    | _ => none
  | none, some rest =>
    if rest.getLast? = some ')' then (namedOperand "clockSrcFreq" rest.dropLast).map .tgt else none
  | none, none => none

/-- A line of a program's text, in either spelling (R60; log entry 15). -/
def parseLine (line : String) : Option AsmLine :=
  match parseMnemonic line.toList with
  | some a => some a
  | none => parseCall line.toList

end Sys2Proof.Machine
end

