-- ==== Sys2Proof/Machine/Run.lean ====
section
/-! DEFINITION. A run: a finite sequence of events (R127). -/

namespace Sys2Proof.Machine

/-- Serve the next `n` events. A refused request is dropped without a response and the run goes on with
the next one; a fault ends the run as wrong (R122, R127; log entry 8). -/
def runEvents : Nat → State → Except Fault State
  | 0, s => .ok s
  | n + 1, s =>
    match step s with
    | .next t => runEvents n t
    | .refused _ => runEvents n s.dropEvent
    | .fault e => .error e

end Sys2Proof.Machine
end

