-- ==== Sys2Proof/Safety.lean ====
section
/-! DEFINITION. The terms the claims are stated in: rounding and the counts as relations written from the
rules (not from the functions of the machine), the invariant, and the response of a request served
alone. -/

namespace Sys2Proof.Machine

/-- `q` is `a / d` rounded to the nearest integer, a tie upward: q ≤ a/d + 1/2 < q + 1 (R63). -/
abbrev RoundsTo (a d q : Int) : Prop :=
  2 * d * q ≤ 2 * a + d ∧ 2 * a + d < 2 * d * (q + 1)

/-- The two corrections in sequence: `L₀` before, `L` after; "more than half a reference-clock cycle" is
said with exact halves (R81, R82). -/
def CorrectsTo (P Tpp H L₀ L : Int) : Prop :=
  ∃ L₁ : Int,
    (P < 2 * ((L₀ + H + 2) * P - Tpp) → L₁ = L₀ - 1) ∧
    (2 * ((L₀ + H + 2) * P - Tpp) ≤ P → L₁ = L₀) ∧
    (P < 2 * (Tpp - (L₁ + H + 2) * P) → L = L₁ + 1) ∧
    (2 * (Tpp - (L₁ + H + 2) * P) ≤ P → L = L₁)

/-- `c` holds the counts of a Pure-I3C request and `P` its ClockPeriod, as R65, R74, R76 to R78, R81 to R84,
R87, R88 and R90 say. -/
def PureRules (prm : Params) (clk f3 duty : Word) (P : Int) (c : Counts) : Prop :=
  ∃ Tpp tHi H₀ L₀ ODL₀ : Int,
    RoundsTo 100000000000 clk.toNat P ∧
    RoundsTo 100000000000 f3.toNat Tpp ∧
    RoundsTo (Tpp * duty.toNat) 100 tHi ∧
    RoundsTo tHi P (H₀ + 1) ∧
    ((H₀ + 1) * P < 3200 →
      RoundsTo 3200 P (c.H + 1) ∧ RoundsTo (Tpp - (c.H + 1) * P) P (L₀ + 1)) ∧
    (3200 ≤ (H₀ + 1) * P → c.H = H₀ ∧ RoundsTo (Tpp - tHi) P (L₀ + 1)) ∧
    CorrectsTo P Tpp c.H L₀ c.L ∧
    (Tpp < 20000 → RoundsTo 20000 P (ODL₀ + 1)) ∧
    (20000 ≤ Tpp → ODL₀ = c.L) ∧
    ((ODL₀ + 1) * P < 35000 → RoundsTo 35000 P (c.ODL - 1)) ∧
    (35000 ≤ (ODL₀ + 1) * P → c.ODL = ODL₀) ∧
    c.I2CH = 0 ∧
    RoundsTo (prm.TCAS_MIN + 35000) (2 * P) (c.FREE - 1) ∧
    RoundsTo 100000 P (c.IDLE + 2)

/-- `c` holds the counts of a Mixed request and `P` its ClockPeriod, as R65, R74, R79 to R82, R85 to R88 and
R90 say. -/
def MixedRules (prm : Params) (clk f3 f2 duty : Word) (P : Int) (c : Counts) : Prop :=
  ∃ Tpp Tod H₀ L₀ hiShare ODL₀ floorOD : Int,
    RoundsTo 100000000000 clk.toNat P ∧
    RoundsTo 100000000000 f3.toNat Tpp ∧
    RoundsTo 100000000000 f2.toNat Tod ∧
    RoundsTo 4100 P (H₀ + 1) ∧
    ((H₀ + 1) * P < 3200 → c.H = H₀ + 1) ∧
    (4100 < (H₀ + 1) * P → c.H = H₀ - 1) ∧
    (3200 ≤ (H₀ + 1) * P → (H₀ + 1) * P ≤ 4100 → c.H = H₀) ∧
    RoundsTo (Tpp - (c.H + 1) * P) P (L₀ + 1) ∧
    CorrectsTo P Tpp c.H L₀ c.L ∧
    RoundsTo (Tod * duty.toNat) 100 hiShare ∧
    RoundsTo (Tod - hiShare) P (ODL₀ + 1) ∧
    (Tod < prm.TFM_MIN → floorOD = 50000) ∧
    (prm.TFM_MIN ≤ Tod → floorOD = 130000) ∧
    ((ODL₀ + 1) * P < floorOD → RoundsTo floorOD P (c.ODL + 1)) ∧
    (floorOD ≤ (ODL₀ + 1) * P → c.ODL = ODL₀) ∧
    RoundsTo (Tod - (c.ODL + 1) * P) P (c.I2CH + 1) ∧
    RoundsTo ((c.ODL + 1) * P + 35000) (2 * P) c.FREE ∧
    RoundsTo 100000 P (c.IDLE + 2)

/-- Every count fits an 8-bit field (R91). -/
abbrev Counts.Fit (c : Counts) : Prop :=
  (0 ≤ c.L ∧ c.L ≤ 255) ∧ (0 ≤ c.H ∧ c.H ≤ 255) ∧ (0 ≤ c.ODL ∧ c.ODL ≤ 255) ∧
  (0 ≤ c.I2CH ∧ c.I2CH ≤ 255) ∧ (0 ≤ c.FREE ∧ c.FREE ≤ 255) ∧ (0 ≤ c.IDLE ∧ c.IDLE ≤ 255)

/-- The record of counts that fit, each field the count's own 8-bit binary value, and the flag set when the
reference period is at most 6 ns (R52, R53, R89, R92). -/
def Counts.written (c : Counts) (prm : Params) (P : Int) : ControllerTimingConfig where
  SCLPPLowDuration := BitVec.ofNat 8 c.L.toNat
  SCLI3CHighDuration := BitVec.ofNat 8 c.H.toNat
  SCLODLowDuration := BitVec.ofNat 8 c.ODL.toNat
  SCLI2CHighDuration := BitVec.ofNat 8 c.I2CH.toNat
  BusFreeDuration := BitVec.ofNat 8 c.FREE.toNat
  BusIdleDuration := BitVec.ofNat 8 c.IDLE.toNat
  SDAHoldTime := if P ≤ 600 then 1#32 <<< prm.SDA_HOLD_BIT_POS.val else 0#32

/-- `i` completes in `s` with STATUS = OK and the controller record `c`. -/
def AnswersRecord (i : Instr) (s : State) (c : ControllerTimingConfig) : Prop :=
  ∃ t, exec i s = .next t ∧ t.status = some .ok ∧ t.cfg = some (.controller c)

/-- `i` completes in `s` with the InvalidTiming response and changes nothing else (R106). -/
def AnswersError (i : Instr) (s : State) : Prop :=
  exec i s = .next { s with status := some .error, cfg := none }

/-- A configuration whose SDA-hold field has no bit but the flag's (R53). -/
def flagEncoded (prm : Params) (cfg : Option TimingConfig) : Bool :=
  match cfg with
  | some (.controller c) =>
    c.SDAHoldTime == 0#32 || c.SDAHoldTime == 1#32 <<< prm.SDA_HOLD_BIT_POS.val
  | some (.target _) => true
  | none => true

/-- A response with a configuration exactly when its STATUS is OK (R18), and the flag encoded (R53). -/
def Response.consistent (prm : Params) (r : Response) : Bool :=
  (decide (r.status = .ok) == r.cfg.isSome) && flagEncoded prm r.cfg

/-- The invariant: no configuration without a response (R38); every response, at the output or delivered,
is consistent; and the response at the output is the last one delivered, whole (R42). That the output still
shows a delivered response is the model's choice (DESIGN CHOICE, log entry 19). -/
def State.Inv (s : State) : Prop :=
  (s.status = none → s.cfg = none) ∧
  (∀ r, s.response = some r → r.consistent s.params = true) ∧
  (∀ d ∈ s.delivered, d.response.consistent s.params = true) ∧
  (s.response = none ∨ s.response = s.delivered.getLast?.map (·.response))

/-- A machine with parameters `prm`, right after reset. -/
def freshState (prm : Params) : State :=
  { State.reset with params := prm }

/-- The response to `q` when it is the only request a fresh machine ever gets; none if it is refused. -/
def responseAlone (prm : Params) (q : Request) : Option Response :=
  match serveRequest 0 q (freshState prm) with
  | .next t => t.response
  | .fault _ => none
  | .refused _ => none

/-- The events of a program: requests with the host that issues each (R2, R127). -/
def requestEvents (reqs : List (Nat × Request)) : List Event :=
  reqs.map fun r => .request r.1 r.2

/-- What the requests of a program deliver if each is answered as when served alone. -/
def deliveriesAlone (prm : Params) (reqs : List (Nat × Request)) : List Delivery :=
  reqs.filterMap fun r => (responseAlone prm r.2).map (Delivery.mk r.1)

end Sys2Proof.Machine
end

