-- ==== Sys2Proof/Certificates/Slice0/Obligations.lean ====
section
/-! DEFINITION. The statements for the provers. Each docstring names the rule or the sections it rests on. -/

open Sys2Proof Sys2Proof.Machine

/-! ### Reset, invariant and whole-machine rules -/

/-- After reset no response exists and the block is idle (R38, R118). That a step of the idle block changes
nothing is the model's reading (log entry 3). -/
def Obligations.ResetIsIdleWithNoResponse : Prop :=
  State.reset.status = none ∧ State.reset.cfg = none ∧ State.reset.response = none ∧
  State.reset.events = [] ∧ step State.reset = .next State.reset

/-- The invariant holds right after reset, whatever the parameters. -/
def Obligations.ResetMeetsInvariant : Prop :=
  ∀ prm : Params, (freshState prm).Inv

/-- Every step keeps the invariant: no configuration without a response, a configuration exactly with OK,
no bit of SDAHoldTime but the flag's, and the output is the last delivery, whole (R18, R38, R42, R53). That
the output still shows a response once it is delivered is the model's choice (DESIGN CHOICE, log entry 19). -/
def Obligations.EveryStepKeepsInvariant : Prop :=
  ∀ s t : State, s.Inv → step s = .next t → t.Inv

/-- What executing an instruction leaves alone: everything but the response, and the counter of the free
value, which only an ungated COMPUTE_TGT advances (R13, R24, R38; the counter: log entry 6). -/
def Obligations.ExecFrame : Prop :=
  ∀ (i : Instr) (s : State), ∃ t, exec i s = .next t ∧
    t.params = s.params ∧ t.events = s.events ∧ t.delivered = s.delivered ∧
    t.observed = s.observed ∧ t.status ≠ none ∧
    (t.draws = s.draws ∨
      (s.params.TARGET_RANGE_GATE = false ∧ t.draws = s.draws + 1 ∧
        ∃ b clk f3 f2 duty, i = .computeTgt b clk f3 f2 duty))

/-- What any step leaves alone: the parameters and every delivered response; it takes at most the first
event (R38, R42). That a reset event, too, leaves the waiting events and the delivered responses is the
model's reading of R119 (DEDUCED, log entry 10). -/
def Obligations.StepFrame : Prop :=
  ∀ s t : State, step s = .next t →
    t.params = s.params ∧ t.events = s.events.tail ∧
    s.delivered <+: t.delivered ∧ s.observed <+: t.observed ∧ s.draws ≤ t.draws

/-- A step whose first event is a request that decodes to `i` runs `exec i` on the state without that event
and appends the whole response to what was delivered. That the response also stays at the output is the
model's choice (DESIGN CHOICE, log entry 19). -/
def Obligations.StepRunsDecodedInstruction : Prop :=
  ∀ (s : State) (host : Nat) (q : Request) (rest : List Event) (i : Instr),
    s.events = .request host q :: rest → i.wf = true → decode q = .ok i →
    ∃ t r, exec i { s with events := rest } = .next t ∧ t.response = some r ∧
      step s = .next { t with delivered := t.delivered ++ [⟨host, r⟩] }

/-- Every well-formed request gets exactly one response, OK with a record or ERROR with none, from every
state (R126, R42). -/
def Obligations.WellFormedRequestGetsOneResponse : Prop :=
  ∀ (s : State) (host : Nat) (q : Request) (rest : List Event),
    s.events = .request host q :: rest → q.CMD.toNat < 4 →
    ∃ t r, step s = .next t ∧ t.events = rest ∧
      t.delivered = s.delivered ++ [⟨host, r⟩] ∧
      ((r.status = .ok ∧ r.cfg ≠ none) ∨ (r.status = .error ∧ r.cfg = none))

/-- A response depends on its request and the parameters alone (R13); with the gate off the draw of R105 is
the one exception, and the statement then asks for the same draw (log entry 6). -/
def Obligations.ResponseDependsOnRequestAlone : Prop :=
  ∀ (i : Instr) (s s' : State), s.params = s'.params →
    (s.params.TARGET_RANGE_GATE = true ∨ s.draws = s'.draws) →
    ∃ t t', exec i s = .next t ∧ exec i s' = .next t' ∧
      t.response = t'.response ∧ t.response ≠ none

/-- A request after an ERROR runs as if the error had never happened, and one after a reset is served in full,
as without it (R119). That a reset event clears STATUS and CFG only, and leaves the waiting events and the
delivered responses, is the model's reading (DEDUCED, log entry 10). -/
def Obligations.ErrorAndResetLeaveNothingBehind : Prop :=
  (∀ (i j : Instr) (s t : State), exec i s = .next t → t.status = some .error →
    exec j t = exec j s) ∧
  (∀ (j : Instr) (s : State), exec j s.resetBlock = exec j s) ∧
  (∀ (s : State) (rest : List Event), s.events = .reset :: rest →
    step s = .next { s with events := rest, status := none, cfg := none })

/-- A run over the requests of any hosts delivers, in serving order, the response each request gets alone;
refused requests get none and end nothing (R44, R127; the going on after a refusal: log entry 8). -/
def Obligations.RunDeliversEachResponse : Prop :=
  ∀ (s : State) (reqs : List (Nat × Request)), s.params.TARGET_RANGE_GATE = true →
    ∃ t, runEvents reqs.length (s.withEvents (requestEvents reqs)) = .ok t ∧
      t.events = [] ∧ t.params = s.params ∧
      t.delivered = s.delivered ++ deliveriesAlone s.params reqs

/-- "every serving order gives each request the same response" (R42): for two orders of the same requests, one
function gives each request its response in both runs, and so the same responses reach the same hosts;
every request without a reserved bit has one. That a run holding refused requests completes is the
model's reading (DEDUCED, log entry 8). -/
def Obligations.ServingOrderDoesNotMatter : Prop :=
  ∀ (s : State) (reqs reqs' : List (Nat × Request)), s.params.TARGET_RANGE_GATE = true →
    reqs.Perm reqs' →
    ∃ (t t' : State) (answer : Request → Option Response),
      runEvents reqs.length (s.withEvents (requestEvents reqs)) = .ok t ∧
      runEvents reqs'.length (s.withEvents (requestEvents reqs')) = .ok t' ∧
      t.delivered = s.delivered ++ reqs.filterMap (fun r => (answer r.2).map (Delivery.mk r.1)) ∧
      t'.delivered = s.delivered ++ reqs'.filterMap (fun r => (answer r.2).map (Delivery.mk r.1)) ∧
      (∀ q : Request, q.CMD.toNat < 4 → answer q ≠ none) ∧
      t.delivered.Perm t'.delivered

/-! ### Encoding -/

/-- No bit of an instruction is lost by encoding it (R47, R48). -/
def Obligations.DecodeEncodeReturnsInstruction : Prop :=
  ∀ i : Instr, i.wf = true → decode (encode i) = .ok i

/-- A request has one meaning: encoding what was decoded gives its words back (R47). -/
def Obligations.EncodeDecodeReturnsRequest : Prop :=
  ∀ (q : Request) (i : Instr), decode q = .ok i → encode i = q

/-- Operation selection by the command word (R49); operands pass through unchecked (R51). -/
def Obligations.DecodeFollowsCommandWord : Prop :=
  ∀ q : Request,
    (q.CMD = 0 → decode q = .ok (.computeCtrl .pureI3C q.CLK q.F3 q.F2 q.DUTY)) ∧
    (q.CMD = 2 → decode q = .ok (.computeCtrl .mixed q.CLK q.F3 q.F2 q.DUTY)) ∧
    (q.CMD = 1 → decode q = .ok (.computeTgt false q.CLK q.F3 q.F2 q.DUTY)) ∧
    (q.CMD = 3 → decode q = .ok (.computeTgt true q.CLK q.F3 q.F2 q.DUTY)) ∧
    (q.CMD ≠ 0 → q.CMD ≠ 1 → q.CMD ≠ 2 → q.CMD ≠ 3 → decode q = .error .reservedCommandBits)

/-- The two rows of the opcode map, match and mask, select the two operations (R59). -/
def Obligations.OpcodeRowsSelectOperation : Prop :=
  ∀ q : Request,
    (q.CMD &&& 0xFFFFFFFD = 0x00000000 ↔
      decode q = .ok (.computeCtrl (if q.CMD.getLsbD 1 then .mixed else .pureI3C) q.CLK q.F3 q.F2 q.DUTY)) ∧
    (q.CMD &&& 0xFFFFFFFD = 0x00000001 ↔
      decode q = .ok (.computeTgt (q.CMD.getLsbD 1) q.CLK q.F3 q.F2 q.DUTY))

/-- Words written out in the spec's Programs 1 and 3 decode to what they are written for. -/
def Obligations.WrittenWordsDecode : Prop :=
  decode ⟨0x00000000, 0x02DC6C00, 0x00BEBC20, 0x00000000, 0x00000032⟩ =
    .ok (.computeCtrl .pureI3C 48000000 12500000 0 50) ∧
  decode ⟨0x00000002, 0x02DC6C00, 0x00BEBC20, 0x000F4240, 0x00000032⟩ =
    .ok (.computeCtrl .mixed 48000000 12500000 1000000 50) ∧
  decode ⟨0x00000001, 0x02DC6C00, 0x00000000, 0x00000000, 0x00000000⟩ =
    .ok (.computeTgt false 48000000 0 0 0)

/-- A command word with any of bits [31:2] set is refused (R50). -/
def Obligations.ReservedBitsAreRefused : Prop :=
  ∀ (s : State) (host : Nat) (q : Request) (rest : List Event),
    s.events = .request host q :: rest → (∃ n, 2 ≤ n ∧ n ≤ 31 ∧ q.CMD.getLsbD n = true) →
    step s = .refused .reservedCommandBits

/-- The written lines decode to their operations (R60). -/
def Obligations.AssemblerLinesDecode : Prop :=
  ∀ clk f3 f2 duty : Word,
    decode (assemble (.ctrlPure clk f3 f2 duty)) = .ok (.computeCtrl .pureI3C clk f3 f2 duty) ∧
    decode (assemble (.ctrlMixed clk f3 f2 duty)) = .ok (.computeCtrl .mixed clk f3 f2 duty) ∧
    decode (assemble (.tgt clk)) = .ok (.computeTgt false clk 0 0 0)

/-- The pseudo-instruction expands to `f2 = 0`, and exactly: every `f2` is served alike (R61). -/
def Obligations.ShortPureLineIsExact : Prop :=
  ∀ (s : State) (host : Nat) (clk f3 f2 duty : Word),
    assemble (.ctrlPureShort clk f3 duty) = assemble (.ctrlPure clk f3 0 duty) ∧
    serveRequest host (assemble (.ctrlPureShort clk f3 duty)) s =
      serveRequest host (assemble (.ctrlPure clk f3 f2 duty)) s

/-- The packed views, field by field (R57, R58). The flag's position is taken inside [31:24], where R57
places it; for a position inside another field R57 gives no layout (log entry 12). -/
def Obligations.PackedViewsHoldTheFields : Prop :=
  (∀ (c : ControllerTimingConfig) (pos : Fin 32) (flag : Bool), 24 ≤ pos.val →
    c.SDAHoldTime = (if flag then 1#32 <<< pos.val else 0#32) →
    c.timing0.extractLsb 7 0 = c.SCLPPLowDuration ∧
    c.timing0.extractLsb 15 8 = c.SCLI3CHighDuration ∧
    c.timing0.extractLsb 23 16 = c.SCLODLowDuration ∧
    c.timing0.extractLsb 31 24 = c.SCLI2CHighDuration ∧
    c.timing1.extractLsb 7 0 = c.BusIdleDuration ∧
    c.timing1.extractLsb 15 8 = 0 ∧
    c.timing1.extractLsb 23 16 = c.BusFreeDuration ∧
    ∀ n, 24 ≤ n → n < 32 → c.timing1.getLsbD n = (flag && decide (n = pos.val))) ∧
  (∀ c : TargetTimingConfig,
    c.timing1.extractLsb 7 0 = c.BusAvailableDuration ∧ c.timing1.extractLsb 31 8 = 0)

/-! ### Rounding and the period converter -/

/-- R63: `div_round` is ⌊a/d + 1/2⌋ over the rationals, and for odd `d` there is no exact tie. -/
def Obligations.DivRoundIsRationalRounding : Prop :=
  ∀ a d : Int, 0 < d →
    divRound a d = ⌊(a : ℚ) / (d : ℚ) + 1 / 2⌋ ∧
    (d % 2 = 1 → ∀ k : Int, 2 * a ≠ (2 * k + 1) * d)

/-- The converter's value, zero only for frequency 0, and its bounds (R64, R66). -/
def Obligations.PeriodOfFrequency : Prop :=
  period10ps 0 = 0 ∧
  ∀ f : Word, f ≠ 0 →
    RoundsTo 100000000000 f.toNat (period10ps f) ∧
    23 ≤ period10ps f ∧ period10ps f ≤ 100000000000

/-- "`period10ps(f)` is non-increasing in `f`", over the non-zero frequencies (R67). -/
def Obligations.PeriodNonIncreasing : Prop :=
  ∀ f g : Word, f ≠ 0 → f.toNat ≤ g.toNat → period10ps g ≤ period10ps f

/-! ### COMPUTE_CTRL -/

/-- COMPUTE_CTRL on a Pure-I3C bus: operands that pass validation, with counts that fit, commit exactly the
counts of the rules (R76 to R78, R81 to R84, R92), and nothing else changes. -/
def Obligations.PureCommitsRuleCounts : Prop :=
  ∀ (s : State) (clk f3 f2 duty : Word) (P : Int) (c : Counts),
    clk ≠ 0 → f3 ≠ 0 → duty.toNat ≤ 50 →
    PureRules s.params clk f3 duty P c → c.Fit →
    exec (.computeCtrl .pureI3C clk f3 f2 duty) s =
      .next { s with status := some .ok, cfg := some (.controller (c.written s.params P)) }

/-- COMPUTE_CTRL on a Mixed bus, likewise (R79 to R82, R85, R86, R92). -/
def Obligations.MixedCommitsRuleCounts : Prop :=
  ∀ (s : State) (clk f3 f2 duty : Word) (P : Int) (c : Counts),
    clk ≠ 0 → f3 ≠ 0 → f2 ≠ 0 → duty.toNat ≤ 50 →
    (∀ Tod, RoundsTo 100000000000 f2.toNat Tod → Tod ≤ 1000000) →
    MixedRules s.params clk f3 f2 duty P c → c.Fit →
    exec (.computeCtrl .mixed clk f3 f2 duty) s =
      .next { s with status := some .ok, cfg := some (.controller (c.written s.params P)) }

/-- The fields of an OK response that follow from its open-drain low field and the two periods: I2C high,
bus-free, SDA hold, bus-idle (R87 to R90). -/
def Obligations.SecondaryFieldsFollowRules : Prop :=
  ∀ (s : State) (bus : BusType) (clk f3 f2 duty : Word) (c : ControllerTimingConfig) (P : Int),
    AnswersRecord (.computeCtrl bus clk f3 f2 duty) s c → RoundsTo 100000000000 clk.toNat P →
    (bus = .pureI3C →
      c.SCLI2CHighDuration = 0 ∧
      RoundsTo (s.params.TCAS_MIN + 35000) (2 * P) (c.BusFreeDuration.toNat - 1)) ∧
    (bus = .mixed →
      (∀ Tod, RoundsTo 100000000000 f2.toNat Tod →
        RoundsTo (Tod - (c.SCLODLowDuration.toNat + 1) * P) P (c.SCLI2CHighDuration.toNat + 1)) ∧
      RoundsTo ((c.SCLODLowDuration.toNat + 1) * P + 35000) (2 * P) c.BusFreeDuration.toNat) ∧
    (600 < P → c.SDAHoldTime = 0) ∧
    (P ≤ 600 → c.SDAHoldTime = 1#32 <<< s.params.SDA_HOLD_BIT_POS.val) ∧
    RoundsTo 100000 P (c.BusIdleDuration.toNat + 2)

/-- COMPUTE_CTRL answers the InvalidTiming response, and nothing else changes, exactly when a check of R71, R72
or R73 fails or a count of the rules lies outside [0, 255] (R91); in particular for every duty above 50
and for clock 0 (R97). -/
def Obligations.ControllerErrorExactly : Prop :=
  ∀ (s : State) (bus : BusType) (clk f3 f2 duty : Word),
    AnswersError (.computeCtrl bus clk f3 f2 duty) s ↔
      clk = 0 ∨ f3 = 0 ∨ (bus = .mixed ∧ f2 = 0) ∨ 50 < duty.toNat ∨
      (bus = .mixed ∧ ∃ Tod, RoundsTo 100000000000 f2.toNat Tod ∧ 1000000 < Tod) ∨
      (bus = .pureI3C ∧ ∃ P c, PureRules s.params clk f3 duty P c ∧ ¬ c.Fit) ∨
      (bus = .mixed ∧ ∃ P c, MixedRules s.params clk f3 f2 duty P c ∧ ¬ c.Fit)

/-- On a Pure-I3C bus the response does not depend on `in.F2` (R96). -/
def Obligations.PureIgnoresI2cFrequency : Prop :=
  ∀ (s : State) (clk f3 f2 f2' duty : Word),
    exec (.computeCtrl .pureI3C clk f3 f2 duty) s = exec (.computeCtrl .pureI3C clk f3 f2' duty) s

/-- At most one of the two correction checks changes the low count (R93). -/
def Obligations.CorrectionChecksNeverBothFire : Prop :=
  ∀ P Tpp H L : Int, 1 ≤ P → correctOvershoot P Tpp H L ≠ L →
    correctUndershoot P Tpp H (correctOvershoot P Tpp H L) = correctOvershoot P Tpp H L

/-- On every OK response the realised push-pull period is within half a reference period of the requested
one (R94). -/
def Obligations.RealisedPeriodWithinHalfCycle : Prop :=
  ∀ (s : State) (bus : BusType) (clk f3 f2 duty : Word) (c : ControllerTimingConfig) (P Tpp : Int),
    AnswersRecord (.computeCtrl bus clk f3 f2 duty) s c →
    RoundsTo 100000000000 clk.toNat P → RoundsTo 100000000000 f3.toNat Tpp →
    |((c.SCLPPLowDuration.toNat + c.SCLI3CHighDuration.toNat + 2 : Int)) * P - Tpp| ≤ P / 2

/-- The SDA-hold flag is set exactly from a reference clock of 166527894 Hz on (R98). -/
def Obligations.SdaFlagClockThreshold : Prop :=
  (∀ clk : Word, clk ≠ 0 → (period10ps clk ≤ 600 ↔ 166527894 ≤ clk.toNat)) ∧
  period10ps 166527894 = 600 ∧ period10ps 166527893 = 601 ∧
  ∀ (s : State) (bus : BusType) (clk f3 f2 duty : Word) (c : ControllerTimingConfig),
    AnswersRecord (.computeCtrl bus clk f3 f2 duty) s c →
    (c.SDAHoldTime = 1#32 <<< s.params.SDA_HOLD_BIT_POS.val ↔ 166527894 ≤ clk.toNat) ∧
    (c.SDAHoldTime = 0 ↔ clk.toNat < 166527894)

/-- The bus-idle count depends on the clock alone and fits exactly from 1500004 to 257400257 Hz; that range is
necessary for an OK response, not sufficient; on a Pure-I3C bus the bus-free count depends on the
clock alone (R99). -/
def Obligations.IdleCountClockRange : Prop :=
  (∀ clk : Word, clk ≠ 0 →
    (0 ≤ oneUs (period10ps clk) ∧ oneUs (period10ps clk) ≤ 255 ↔
      389 ≤ period10ps clk ∧ period10ps clk ≤ 66666) ∧
    (389 ≤ period10ps clk ∧ period10ps clk ≤ 66666 ↔
      1500004 ≤ clk.toNat ∧ clk.toNat ≤ 257400257)) ∧
  (∀ (s : State) (bus : BusType) (clk f3 f2 duty : Word) (c : ControllerTimingConfig),
    AnswersRecord (.computeCtrl bus clk f3 f2 duty) s c →
    1500004 ≤ clk.toNat ∧ clk.toNat ≤ 257400257) ∧
  (∃ (s : State) (clk f3 f2 duty : Word), 1500004 ≤ clk.toNat ∧ clk.toNat ≤ 257400257 ∧
    clk ≠ 0 ∧ f3 ≠ 0 ∧ duty.toNat ≤ 50 ∧ AnswersError (.computeCtrl .pureI3C clk f3 f2 duty) s) ∧
  (∀ (s s' : State) (bus bus' : BusType) (clk f3 f2 duty f3' f2' duty' : Word)
    (c c' : ControllerTimingConfig),
    AnswersRecord (.computeCtrl bus clk f3 f2 duty) s c →
    AnswersRecord (.computeCtrl bus' clk f3' f2' duty') s' c' →
    c.BusIdleDuration = c'.BusIdleDuration ∧
    (s.params = s'.params → bus = .pureI3C → bus' = .pureI3C →
      c.BusFreeDuration = c'.BusFreeDuration))

/-- The source's scenario 1 comes out as printed exactly for a start-condition-setup minimum in [411, 4576],
whatever the other parameters and `f2` are (R88, R6). -/
def Obligations.ScenarioOneNeedsTcasInRange : Prop :=
  ∀ (s : State) (f2 : Word),
    (411 ≤ s.params.TCAS_MIN ∧ s.params.TCAS_MIN ≤ 4576) ↔
    exec (.computeCtrl .pureI3C 48000000 12500000 f2 50) s =
      .next { s with
        status := some .ok
        cfg := some (.controller
          { SCLPPLowDuration := 1, SCLI3CHighDuration := 1, SCLODLowDuration := 18,
            SCLI2CHighDuration := 0, BusFreeDuration := 10, BusIdleDuration := 46,
            SDAHoldTime := 0 }) }

/-- What an OK response does not guarantee, each by a request that shows it (R95): the minimum high time on
either bus, the maximum high time on a Mixed bus, the open-drain floor on a Mixed bus, a low phase no
shorter than the high phase on either bus, and a realised frequency no higher than the requested one. -/
def Obligations.NotGuaranteedOfOkResponses : Prop :=
  (∀ bus : BusType, ∃ (s : State) (clk f3 f2 duty : Word) (c : ControllerTimingConfig),
    AnswersRecord (.computeCtrl bus clk f3 f2 duty) s c ∧
    (c.SCLI3CHighDuration.toNat + 1) * period10ps clk < 3200) ∧
  (∃ (s : State) (clk f3 f2 duty : Word) (c : ControllerTimingConfig),
    AnswersRecord (.computeCtrl .mixed clk f3 f2 duty) s c ∧
    4100 < (c.SCLI3CHighDuration.toNat + 1) * period10ps clk) ∧
  (∃ (s : State) (clk f3 f2 duty : Word) (c : ControllerTimingConfig),
    AnswersRecord (.computeCtrl .mixed clk f3 f2 duty) s c ∧
    period10ps f2 < s.params.TFM_MIN ∧
    (c.SCLODLowDuration.toNat + 1) * period10ps clk < 50000) ∧
  (∀ bus : BusType, ∃ (s : State) (clk f3 f2 duty : Word) (c : ControllerTimingConfig),
    AnswersRecord (.computeCtrl bus clk f3 f2 duty) s c ∧
    c.SCLPPLowDuration.toNat < c.SCLI3CHighDuration.toNat) ∧
  (∃ (s : State) (clk f3 f2 duty : Word) (c : ControllerTimingConfig),
    AnswersRecord (.computeCtrl .pureI3C clk f3 f2 duty) s c ∧
    (c.SCLPPLowDuration.toNat + c.SCLI3CHighDuration.toNat + 2) * period10ps clk < period10ps f3)

/-! ### COMPUTE_TGT -/

/-- COMPUTE_TGT's answer from every state, by the clock, its count `A` and the gate parameter, and the clock
range the gate admits (R100, R102, R104, R105). That the unspecified value of the ungated case is
`Config.freeByte` of the counter, which then advances by one, is the model's form of the draw (DESIGN
CHOICE, log entry 6); the statement holds whatever the free value is. -/
def Obligations.TargetAnswersByCountAndGate : Prop :=
  ∀ (s : State) (b : Bool) (clk f3 f2 duty : Word),
    (clk = 0 → AnswersError (.computeTgt b clk f3 f2 duty) s) ∧
    (∀ P A : Int, RoundsTo 100000000000 clk.toNat P → RoundsTo 100000 P (A + 2) →
      (0 ≤ A → A ≤ 255 →
        exec (.computeTgt b clk f3 f2 duty) s =
          .next { s with
            status := some .ok
            cfg := some (.target { BusAvailableDuration := BitVec.ofNat 8 A.toNat }) }) ∧
      (A < 0 ∨ 255 < A → s.params.TARGET_RANGE_GATE = true →
        AnswersError (.computeTgt b clk f3 f2 duty) s) ∧
      (A < 0 ∨ 255 < A → s.params.TARGET_RANGE_GATE = false →
        exec (.computeTgt b clk f3 f2 duty) s =
          .next { s with
            status := some .ok
            cfg := some (.target { BusAvailableDuration := Config.freeByte s.draws })
            draws := s.draws + 1 })) ∧
    (s.params.TARGET_RANGE_GATE = true →
      ((∃ t, exec (.computeTgt b clk f3 f2 duty) s = .next t ∧ t.status = some .ok) ↔
        1500004 ≤ clk.toNat ∧ clk.toNat ≤ 257400257))

/-- COMPUTE_TGT reads the clock alone (R103). -/
def Obligations.TargetReadsOnlyTheClock : Prop :=
  ∀ (s : State) (b b' : Bool) (clk f3 f2 duty f3' f2' duty' : Word),
    exec (.computeTgt b clk f3 f2 duty) s = exec (.computeTgt b' clk f3' f2' duty') s

/-- The target's count is the controller's bus-idle count for the same clock (R104, R90). -/
def Obligations.TargetCountIsControllerIdle : Prop :=
  ∀ (s : State) (bus : BusType) (b : Bool) (clk f3 f2 duty f3' f2' duty' : Word)
    (c : ControllerTimingConfig),
    AnswersRecord (.computeCtrl bus clk f3 f2 duty) s c →
    exec (.computeTgt b clk f3' f2' duty') s =
      .next { s with
        status := some .ok
        cfg := some (.target { BusAvailableDuration := c.BusIdleDuration }) }

/-! ### Responses, errors and reads -/

/-- The record's kind is the operation's, there is one exactly with OK, and none exactly with ERROR (R18). -/
def Obligations.ConfigurationKindMatchesOperation : Prop :=
  ∀ (i : Instr) (s t : State), exec i s = .next t →
    (t.status = some .error ↔ t.cfg = none) ∧
    (t.status = some .ok ↔
      match i with
      | .computeCtrl _ _ _ _ _ => ∃ c, t.cfg = some (.controller c)
      | .computeTgt _ _ _ _ _ => ∃ c, t.cfg = some (.target c))

/-- An ERROR response carries no configuration and no cause: all failures of all operations give the same
state but for what was there before (R109, R106). -/
def Obligations.ErrorResponseCarriesNothing : Prop :=
  ∀ (i : Instr) (s t : State), exec i s = .next t → t.status = some .error →
    t = { s with status := some .error, cfg := none }

/-- "Any read of a field of `none` is a *fault*" (R122, R18): whenever the next event is a read, of any field, and
the response it refers to has no configuration, the step faults. So it does for every ERROR response in
a state that meets the invariant, and for the ERROR response a host got in the step before. That a read
refers to the host's last response is the model's choice (DESIGN CHOICE, log entry 18), and so is that STATUS
still shows the ERROR after that step (DESIGN CHOICE, log entry 19). -/
def Obligations.ReadOfErrorResponseFaults : Prop :=
  (∀ (s : State) (host : Nat) (f : CfgField) (rest : List Event) (r : Response),
    s.events = .read host f :: rest → lastResponse host s.delivered = some r → r.cfg = none →
    step s = .fault .readOfNoneConfiguration) ∧
  (∀ (s : State) (host : Nat) (f : CfgField) (rest : List Event) (r : Response), s.Inv →
    s.events = .read host f :: rest → lastResponse host s.delivered = some r → r.status = .error →
    step s = .fault .readOfNoneConfiguration) ∧
  (∀ (s t : State) (host : Nat) (q : Request) (f : CfgField) (rest : List Event),
    s.events = .request host q :: .read host f :: rest → step s = .next t →
    t.status = some .error → step t = .fault .readOfNoneConfiguration)

/-- The other reads that fault, both by the model's own reading: of any field by a host that no response has
been delivered to, as of *none* (DEDUCED, log entry 14); and of a field the record received last does not
have (DESIGN CHOICE, log entries 9 and 18). -/
def Obligations.ReadWithoutTheFieldFaults : Prop :=
  (∀ (s : State) (host : Nat) (f : CfgField) (rest : List Event),
    s.events = .read host f :: rest → (∀ d ∈ s.delivered, d.host ≠ host) →
    step s = .fault .readOfNoneConfiguration) ∧
  (∀ (s : State) (host : Nat) (rest : List Event) (st : Status) (c : ControllerTimingConfig),
    s.events = .read host .BusAvailableDuration :: rest →
    lastResponse host s.delivered = some ⟨st, some (.controller c)⟩ →
    step s = .fault .readOfOtherRecord) ∧
  (∀ (s : State) (host : Nat) (f : CfgField) (rest : List Event) (st : Status)
    (c : TargetTimingConfig), f ≠ .BusAvailableDuration →
    s.events = .read host f :: rest →
    lastResponse host s.delivered = some ⟨st, some (.target c)⟩ →
    step s = .fault .readOfOtherRecord)

/-- A host that reads a field of the record it received last gets that field, zero-extended, and nothing at
the block changes (R12, R19, R20, R43). That a read refers to the last response is the model's choice
(DESIGN CHOICE, log entry 18). -/
def Obligations.HostReadReturnsTheField : Prop :=
  ∀ (s : State) (host : Nat) (rest : List Event),
    (∀ c : ControllerTimingConfig,
      lastResponse host s.delivered = some ⟨.ok, some (.controller c)⟩ →
      ∀ fv ∈ [(CfgField.SCLPPLowDuration, c.SCLPPLowDuration.toNat),
          (.SCLI3CHighDuration, c.SCLI3CHighDuration.toNat),
          (.SCLODLowDuration, c.SCLODLowDuration.toNat),
          (.SCLI2CHighDuration, c.SCLI2CHighDuration.toNat),
          (.BusFreeDuration, c.BusFreeDuration.toNat),
          (.BusIdleDuration, c.BusIdleDuration.toNat),
          (.SDAHoldTime, c.SDAHoldTime.toNat)],
        s.events = .read host fv.1 :: rest →
        step s = .next { s with
          events := rest
          observed := s.observed ++ [⟨host, fv.1, BitVec.ofNat 32 fv.2⟩] }) ∧
    (∀ c : TargetTimingConfig,
      lastResponse host s.delivered = some ⟨.ok, some (.target c)⟩ →
      s.events = .read host .BusAvailableDuration :: rest →
      step s = .next { s with
        events := rest
        observed := s.observed ++
          [⟨host, .BusAvailableDuration, BitVec.ofNat 32 c.BusAvailableDuration.toNat⟩] })
end

