-- ==== Sys2Proof/Laws/Arith.lean ====
section
/-! SUPPORT. Rounding: `divRound` meets the relation the claims use, and only its value does. -/

namespace Sys2Proof.Machine

/-- The relation determines its result. -/
theorem RoundsTo.unique {a d q r : Int} (hd : 0 < d) (hq : RoundsTo a d q) (hr : RoundsTo a d r) :
    q = r := by
  obtain ⟨hq₁, hq₂⟩ := hq
  obtain ⟨hr₁, hr₂⟩ := hr
  have h₁ : 2 * d * q < 2 * d * (r + 1) := by omega
  have h₂ : 2 * d * r < 2 * d * (q + 1) := by omega
  have := Int.lt_of_mul_lt_mul_left h₁ (by omega)
  have := Int.lt_of_mul_lt_mul_left h₂ (by omega)
  omega

/-- `divRound` is the nearest integer, a tie upward. -/
theorem divRound_roundsTo (a : Int) {d : Int} (hd : 0 < d) : RoundsTo a d (divRound a d) := by
  have h := Int.mul_ediv_add_emod (a + d / 2) d
  have hn := Int.emod_nonneg (a + d / 2) (Int.ne_of_gt hd)
  have hl := Int.emod_lt_of_pos (a + d / 2) hd
  have e₁ : 2 * d * divRound a d = 2 * (d * ((a + d / 2) / d)) := by unfold divRound; ring
  have e₂ : 2 * d * (divRound a d + 1) = 2 * (d * ((a + d / 2) / d)) + 2 * d := by
    unfold divRound; ring
  constructor <;> omega

/-- Reading the relation as an equation on `divRound`. -/
theorem roundsTo_iff {a d q : Int} (hd : 0 < d) : RoundsTo a d q ↔ q = divRound a d :=
  ⟨fun h => h.unique hd (divRound_roundsTo a hd), fun h => h ▸ divRound_roundsTo a hd⟩

/-- A rounded quotient times its divisor is within half a divisor of the dividend. -/
theorem divRound_error (a : Int) {d : Int} (hd : 0 < d) :
    divRound a d * d - a ≤ d / 2 ∧ a - divRound a d * d ≤ d / 2 := by
  obtain ⟨h₁, h₂⟩ := divRound_roundsTo a hd
  have e₁ : 2 * d * divRound a d = 2 * (divRound a d * d) := by ring
  have e₂ : 2 * d * (divRound a d + 1) = 2 * (divRound a d * d) + 2 * d := by ring
  omega

/-- An operand is a natural number below 2^32. -/
theorem operand_bounds (w : Word) : 0 ≤ operand w ∧ operand w < 4294967296 := by
  have := w.isLt
  unfold operand
  omega

theorem operand_pos {w : Word} (h : w ≠ 0) : 0 < operand w := by
  have : w.toNat ≠ 0 := fun h0 => h (BitVec.eq_of_toNat_eq (by simpa using h0))
  unfold operand
  omega

@[simp] theorem period10ps_zero : period10ps 0 = 0 := rfl

theorem period10ps_of_ne {f : Word} (h : f ≠ 0) : period10ps f = divRound 100000000000 (operand f) := by
  unfold period10ps; rw [if_neg h]

end Sys2Proof.Machine
end

