-- ==== Sys2Proof/Laws/State.lean ====
section
/-! SUPPORT. One lemma per field per update of State. -/

namespace Sys2Proof.Machine

@[simp] theorem State.commit_params (s : State) (c : TimingConfig) : (s.commit c).params = s.params := rfl
@[simp] theorem State.commit_events (s : State) (c : TimingConfig) : (s.commit c).events = s.events := rfl
@[simp] theorem State.commit_status (s : State) (c : TimingConfig) : (s.commit c).status = some .ok := rfl
@[simp] theorem State.commit_cfg (s : State) (c : TimingConfig) : (s.commit c).cfg = some c := rfl
@[simp] theorem State.commit_delivered (s : State) (c : TimingConfig) : (s.commit c).delivered = s.delivered := rfl
@[simp] theorem State.commit_observed (s : State) (c : TimingConfig) : (s.commit c).observed = s.observed := rfl
@[simp] theorem State.commit_draws (s : State) (c : TimingConfig) : (s.commit c).draws = s.draws := rfl

@[simp] theorem State.raiseInvalidTiming_params (s : State) (cause : Cause) : (s.raiseInvalidTiming cause).params = s.params := rfl
@[simp] theorem State.raiseInvalidTiming_events (s : State) (cause : Cause) : (s.raiseInvalidTiming cause).events = s.events := rfl
@[simp] theorem State.raiseInvalidTiming_status (s : State) (cause : Cause) : (s.raiseInvalidTiming cause).status = some .error := rfl
@[simp] theorem State.raiseInvalidTiming_cfg (s : State) (cause : Cause) : (s.raiseInvalidTiming cause).cfg = none := rfl
@[simp] theorem State.raiseInvalidTiming_delivered (s : State) (cause : Cause) : (s.raiseInvalidTiming cause).delivered = s.delivered := rfl
@[simp] theorem State.raiseInvalidTiming_observed (s : State) (cause : Cause) : (s.raiseInvalidTiming cause).observed = s.observed := rfl
@[simp] theorem State.raiseInvalidTiming_draws (s : State) (cause : Cause) : (s.raiseInvalidTiming cause).draws = s.draws := rfl

@[simp] theorem State.draw_params (s : State) : (s.draw).params = s.params := rfl
@[simp] theorem State.draw_events (s : State) : (s.draw).events = s.events := rfl
@[simp] theorem State.draw_status (s : State) : (s.draw).status = s.status := rfl
@[simp] theorem State.draw_cfg (s : State) : (s.draw).cfg = s.cfg := rfl
@[simp] theorem State.draw_delivered (s : State) : (s.draw).delivered = s.delivered := rfl
@[simp] theorem State.draw_observed (s : State) : (s.draw).observed = s.observed := rfl
@[simp] theorem State.draw_draws (s : State) : (s.draw).draws = s.draws + 1 := rfl

@[simp] theorem State.withEvents_params (s : State) (rest : List Event) : (s.withEvents rest).params = s.params := rfl
@[simp] theorem State.withEvents_events (s : State) (rest : List Event) : (s.withEvents rest).events = rest := rfl
@[simp] theorem State.withEvents_status (s : State) (rest : List Event) : (s.withEvents rest).status = s.status := rfl
@[simp] theorem State.withEvents_cfg (s : State) (rest : List Event) : (s.withEvents rest).cfg = s.cfg := rfl
@[simp] theorem State.withEvents_delivered (s : State) (rest : List Event) : (s.withEvents rest).delivered = s.delivered := rfl
@[simp] theorem State.withEvents_observed (s : State) (rest : List Event) : (s.withEvents rest).observed = s.observed := rfl
@[simp] theorem State.withEvents_draws (s : State) (rest : List Event) : (s.withEvents rest).draws = s.draws := rfl

@[simp] theorem State.resetBlock_params (s : State) : (s.resetBlock).params = s.params := rfl
@[simp] theorem State.resetBlock_events (s : State) : (s.resetBlock).events = s.events := rfl
@[simp] theorem State.resetBlock_status (s : State) : (s.resetBlock).status = none := rfl
@[simp] theorem State.resetBlock_cfg (s : State) : (s.resetBlock).cfg = none := rfl
@[simp] theorem State.resetBlock_delivered (s : State) : (s.resetBlock).delivered = s.delivered := rfl
@[simp] theorem State.resetBlock_observed (s : State) : (s.resetBlock).observed = s.observed := rfl
@[simp] theorem State.resetBlock_draws (s : State) : (s.resetBlock).draws = s.draws := rfl

@[simp] theorem State.respond_params (s : State) (r : Except Cause TimingConfig) : (s.respond r).params = s.params := by
  cases r <;> rfl
@[simp] theorem State.respond_events (s : State) (r : Except Cause TimingConfig) : (s.respond r).events = s.events := by
  cases r <;> rfl
@[simp] theorem State.respond_delivered (s : State) (r : Except Cause TimingConfig) : (s.respond r).delivered = s.delivered := by
  cases r <;> rfl
@[simp] theorem State.respond_observed (s : State) (r : Except Cause TimingConfig) : (s.respond r).observed = s.observed := by
  cases r <;> rfl
@[simp] theorem State.respond_draws (s : State) (r : Except Cause TimingConfig) : (s.respond r).draws = s.draws := by
  cases r <;> rfl

@[simp] theorem State.respond_ok (s : State) (c : TimingConfig) : s.respond (.ok c) = s.commit c := rfl
@[simp] theorem State.respond_error (s : State) (cause : Cause) :
    s.respond (.error cause) = s.raiseInvalidTiming cause := rfl

@[simp] theorem State.deliver_params (s : State) (host : Nat) : (s.deliver host).params = s.params := by
  unfold State.deliver; cases s.response <;> rfl
@[simp] theorem State.deliver_events (s : State) (host : Nat) : (s.deliver host).events = s.events := by
  unfold State.deliver; cases s.response <;> rfl
@[simp] theorem State.deliver_status (s : State) (host : Nat) : (s.deliver host).status = s.status := by
  unfold State.deliver; cases s.response <;> rfl
@[simp] theorem State.deliver_cfg (s : State) (host : Nat) : (s.deliver host).cfg = s.cfg := by
  unfold State.deliver; cases s.response <;> rfl
@[simp] theorem State.deliver_observed (s : State) (host : Nat) : (s.deliver host).observed = s.observed := by
  unfold State.deliver; cases s.response <;> rfl
@[simp] theorem State.deliver_draws (s : State) (host : Nat) : (s.deliver host).draws = s.draws := by
  unfold State.deliver; cases s.response <;> rfl

/-- A delivery appends the response at the output, once one exists. -/
theorem State.deliver_delivered (s : State) (host : Nat) :
    (s.deliver host).delivered = s.delivered ++ (s.response.map (Delivery.mk host)).toList := by
  unfold State.deliver; cases s.response <;> simp

@[simp] theorem State.deliver_response (s : State) (host : Nat) : (s.deliver host).response = s.response := by
  simp [State.response]

@[simp] theorem State.commit_response (s : State) (c : TimingConfig) :
    (s.commit c).response = some ⟨.ok, some c⟩ := rfl
@[simp] theorem State.raiseInvalidTiming_response (s : State) (cause : Cause) :
    (s.raiseInvalidTiming cause).response = some ⟨.error, none⟩ := rfl
@[simp] theorem State.draw_response (s : State) : s.draw.response = s.response := rfl
@[simp] theorem State.withEvents_response (s : State) (rest : List Event) :
    (s.withEvents rest).response = s.response := rfl
@[simp] theorem State.resetBlock_response (s : State) : s.resetBlock.response = none := rfl
@[simp] theorem State.withEvents_withEvents (s : State) (a b : List Event) :
    (s.withEvents a).withEvents b = s.withEvents b := rfl

end Sys2Proof.Machine
end

