-- ==== Sys2Proof/Laws/Ops.lean ====
section
/-! SUPPORT. One lemma per shared operation: all that ending an operation, COMPUTE_CTRL, COMPUTE_TGT,
serving a request and one step can do. -/

namespace Sys2Proof.Machine

/-- Ending an operation writes a whole response: OK with a record, or ERROR with none. -/
theorem respond_cases (s : State) (r : Except Cause TimingConfig) :
    (∃ c, r = .ok c ∧ s.respond r = { s with status := some .ok, cfg := some c }) ∨
    (∃ e, r = .error e ∧ s.respond r = { s with status := some .error, cfg := none }) := by
  cases r with
  | ok c => exact .inl ⟨c, rfl, rfl⟩
  | error e => exact .inr ⟨e, rfl, rfl⟩

theorem respond_response (s : State) (r : Except Cause TimingConfig) :
    (s.respond r).response =
      match r with
      | .ok c => some ⟨.ok, some c⟩
      | .error _ => some ⟨.error, none⟩ := by
  cases r <;> rfl

/-- The gate passes exactly the lists whose counts all fit. -/
theorem rangeGate_ok {vs : List Int} : rangeGate vs = .ok () ↔ ∀ v ∈ vs, 0 ≤ v ∧ v ≤ 255 := by
  have hv (v : Int) : inFieldRange v = true ↔ 0 ≤ v ∧ v ≤ 255 := by simp [inFieldRange]
  unfold rangeGate
  rw [← forall₂_congr fun v _ => hv v, ← List.all_eq_true]
  cases vs.all inFieldRange <;> simp

/-- COMPUTE_CTRL answers a record exactly when every check and the gate pass, and then this one. -/
theorem ctrlResult_ok {prm : Params} {bus : BusType} {clk f3 f2 duty : Word}
    {r : ControllerTimingConfig} :
    ctrlResult prm bus clk f3 f2 duty = .ok r ↔
      validateFrequencies bus clk f3 f2 = .ok () ∧
      validateDutyAndPeriod duty (period10ps clk) = .ok () ∧
      validateI2cPeriod bus (period10ps f2) = .ok () ∧
      rangeGate (ctrlCounts prm bus (period10ps clk) (period10ps f3) (period10ps f2)
        (operand duty)).gated = .ok () ∧
      r = (ctrlCounts prm bus (period10ps clk) (period10ps f3) (period10ps f2)
        (operand duty)).record prm (period10ps clk) := by
  unfold ctrlResult
  cases validateFrequencies bus clk f3 f2 <;> simp [bind, Except.bind]
  cases validateDutyAndPeriod duty (period10ps clk) <;> simp
  cases validateI2cPeriod bus (period10ps f2) <;> simp
  cases rangeGate _ <;> simp [pure, Except.pure, eq_comm]

/-- All that `exec` can do: a next state that differs in the response it writes and, for an ungated
COMPUTE_TGT that draws, in the counter. -/
theorem exec_cases (i : Instr) (s : State) :
    ∃ (n : Nat) (r : Response), exec i s =
      .next { s with status := some r.status, cfg := r.cfg, draws := s.draws + n } ∧
      (r.status = .ok ↔ r.cfg.isSome = true) ∧
      (n = 0 ∨ (n = 1 ∧ s.params.TARGET_RANGE_GATE = false ∧
        ∃ b clk f3 f2 duty, i = .computeTgt b clk f3 f2 duty ∧ targetDraws s.params clk = true)) := by
  cases i with
  | computeCtrl bus clk f3 f2 duty =>
    simp only [exec, execComputeCtrl]
    cases ctrlResult s.params bus clk f3 f2 duty with
    | ok c => exact ⟨0, ⟨.ok, some (.controller c)⟩, rfl, by simp, .inl rfl⟩
    | error e => exact ⟨0, ⟨.error, none⟩, rfl, by simp, .inl rfl⟩
  | computeTgt b clk f3 f2 duty =>
    simp only [exec, execComputeTgt]
    split
    · rename_i h
      have hg : s.params.TARGET_RANGE_GATE = false := by
        simp [targetDraws] at h; exact h.1.2
      cases targetResult s.params (Config.freeByte s.draws) clk with
      | ok c => exact ⟨1, ⟨.ok, some (.target c)⟩, rfl, by simp, .inr ⟨rfl, hg, b, clk, f3, f2, duty, rfl, h⟩⟩
      | error e => exact ⟨1, ⟨.error, none⟩, rfl, by simp, .inr ⟨rfl, hg, b, clk, f3, f2, duty, rfl, h⟩⟩
    · cases targetResult s.params (Config.freeByte s.draws) clk with
      | ok c => exact ⟨0, ⟨.ok, some (.target c)⟩, rfl, by simp, .inl rfl⟩
      | error e => exact ⟨0, ⟨.error, none⟩, rfl, by simp, .inl rfl⟩

/-- Decoding fails only for a reserved bit. -/
theorem decode_error {q : Request} {e : DecodeError} :
    decode q = .error e ↔ q.CMD.extractLsb 31 2 ≠ 0 ∧ e = .reservedCommandBits := by
  unfold decode
  split <;> rename_i h
  · exact ⟨fun he => ⟨h, (Except.error.inj he).symm⟩, fun he => by rw [he.2]⟩
  · split <;> simp_all

/-- The state after `exec` wrote the response `r` (with `n` draws) and it was handed to `host`. -/
def State.served (s : State) (n : Nat) (host : Nat) (r : Response) : State :=
  { s with
    status := some r.status, cfg := r.cfg, draws := s.draws + n
    delivered := s.delivered ++ [⟨host, r⟩] }

theorem deliver_written (s : State) (n : Nat) (host : Nat) (r : Response) :
    State.deliver { s with status := some r.status, cfg := r.cfg, draws := s.draws + n } host =
      s.served n host r := rfl

/-- Serving a request: refused for a reserved bit; otherwise the response `exec` writes, delivered. -/
theorem serveRequest_cases (host : Nat) (q : Request) (s : State) :
    (q.CMD.extractLsb 31 2 ≠ 0 ∧ serveRequest host q s = .refused .reservedCommandBits) ∨
    (∃ i n r, decode q = .ok i ∧
      exec i s = .next { s with status := some r.status, cfg := r.cfg, draws := s.draws + n } ∧
      (r.status = .ok ↔ r.cfg.isSome = true) ∧
      serveRequest host q s = .next (s.served n host r)) := by
  unfold serveRequest
  cases h : decode q with
  | error e => exact .inl ⟨(decode_error.mp h).1, rfl⟩
  | ok i =>
    obtain ⟨n, r, he, hr, -⟩ := exec_cases i s
    exact .inr ⟨i, n, r, rfl, he, hr, by simp [he, deliverOutcome, deliver_written]⟩

/-- The last delivery to a host is its last response. -/
@[simp] theorem lastResponse_append_self (host : Nat) (ds : List Delivery) (r : Response) :
    lastResponse host (ds ++ [⟨host, r⟩]) = some r := by
  induction ds with
  | nil => simp [lastResponse]
  | cons d ds ih => simp [lastResponse, ih]

/-- A delivery to another host leaves it. -/
theorem lastResponse_append_other {host h : Nat} (ds : List Delivery) (r : Response) (hne : h ≠ host) :
    lastResponse host (ds ++ [⟨h, r⟩]) = lastResponse host ds := by
  induction ds with
  | nil => simp [lastResponse, hne]
  | cons d ds ih => simp [lastResponse, ih]

/-- A host's last response was delivered to it. -/
theorem lastResponse_mem {host : Nat} {ds : List Delivery} {r : Response}
    (h : lastResponse host ds = some r) : ⟨host, r⟩ ∈ ds := by
  induction ds with
  | nil => simp [lastResponse] at h
  | cons d ds ih =>
    simp only [lastResponse] at h
    split at h
    · rename_i hd
      exact List.mem_cons_of_mem _ (ih (hd.trans h))
    · split at h
      · rename_i hh
        obtain ⟨dh, dr⟩ := d
        cases h
        cases hh
        exact List.mem_cons_self
      · cases h

/-- A consistent ERROR response has no configuration. -/
theorem Response.cfg_none_of_error {prm : Params} {r : Response} (h : r.consistent prm = true)
    (he : r.status = .error) : r.cfg = none := by
  obtain ⟨st, cfg⟩ := r
  cases cfg with
  | none => rfl
  | some c => subst he; simp [Response.consistent] at h

/-- A read changes the hosts' record of values and nothing else, or faults. -/
theorem hostRead_cases (s : State) (host : Nat) (f : CfgField) :
    (∃ v, readResponse f (lastResponse host s.delivered) = .ok v ∧
      s.hostRead host f = .next { s with observed := s.observed ++ [⟨host, f, v⟩] }) ∨
    (∃ e, readResponse f (lastResponse host s.delivered) = .error e ∧ s.hostRead host f = .fault e) := by
  unfold State.hostRead
  cases readResponse f (lastResponse host s.delivered) with
  | ok v => exact .inl ⟨v, rfl, rfl⟩
  | error e => exact .inr ⟨e, rfl, rfl⟩

/-- All that a step answering a next state can have done: idled, executed and delivered a request, recorded
a read value, or reset the block. -/
theorem step_cases {s t : State} (h : step s = .next t) :
    (s.events = [] ∧ t = s) ∨
    (∃ host q rest i n r, s.events = .request host q :: rest ∧ decode q = .ok i ∧
      exec i (s.withEvents rest) =
        .next { s.withEvents rest with status := some r.status, cfg := r.cfg, draws := s.draws + n } ∧
      (r.status = .ok ↔ r.cfg.isSome = true) ∧ t = (s.withEvents rest).served n host r) ∨
    (∃ host f rest v, s.events = .read host f :: rest ∧
      readResponse f (lastResponse host s.delivered) = .ok v ∧
      t = { s.withEvents rest with observed := s.observed ++ [⟨host, f, v⟩] }) ∨
    (∃ rest, s.events = .reset :: rest ∧ t = (s.withEvents rest).resetBlock) := by
  unfold step at h
  cases he : s.events with
  | nil =>
    simp only [he, idle, Host.Outcome.next.injEq] at h
    exact .inl ⟨rfl, h.symm⟩
  | cons e rest =>
    cases e with
    | request host q =>
      simp only [he, serveEvent] at h
      rcases serveRequest_cases host q (s.withEvents rest) with ⟨-, hs⟩ | ⟨i, n, r, hd, hx, hr, hs⟩
      · simp [hs] at h
      · rw [hs] at h
        simp only [Host.Outcome.next.injEq] at h
        exact .inr (.inl ⟨host, q, rest, i, n, r, rfl, hd, hx, hr, h.symm⟩)
    | read host f =>
      simp only [he, serveEvent] at h
      rcases hostRead_cases (s.withEvents rest) host f with ⟨v, hv, hs⟩ | ⟨e, -, hs⟩
      · rw [hs] at h
        simp only [Host.Outcome.next.injEq] at h
        exact .inr (.inr (.inl ⟨host, f, rest, v, rfl, hv, h.symm⟩))
      · simp [hs] at h
    | reset =>
      simp only [he, serveEvent, Host.Outcome.next.injEq] at h
      exact .inr (.inr (.inr ⟨rest, rfl, h.symm⟩))

end Sys2Proof.Machine
end

