-- ==== Sys2Proof/Laws/PerInstr.lean ====
section
/-! SUPPORT. Per-instruction family: what the encoder writes is a well-formed request. -/

namespace Sys2Proof.Laws.EncodeWellFormed

/-- A command word sets no reserved bit. -/
theorem commandWord_reserved (r b : Bool) : ((commandWord r b).extractLsb 31 2 == 0) = true := by
  revert r b
  decide

/-- The encoding of a well-formed instruction has no reserved bit set (R47, R50). -/
def Statement (i : Instr) : Prop :=
  i.wf = true → (encode i).wf = true

theorem computeCtrl (bus : BusType) (clk f3 f2 duty : Word) :
    Statement (.computeCtrl bus clk f3 f2 duty) :=
  fun _ => commandWord_reserved false (bitOfBus bus)

theorem computeTgt (b : Bool) (clk f3 f2 duty : Word) :
    Statement (.computeTgt b clk f3 f2 duty) :=
  fun _ => commandWord_reserved true b

end Sys2Proof.Laws.EncodeWellFormed
end

