-- ==== Sys2Proof/Tests/Slice0.lean ====
section
/-! SUPPORT. Tests with expected values from the spec's own vectors (95_test_vectors.md) or from the encoding
tables, and a witness for the hypotheses of each statement. -/

namespace Sys2Proof.Machine

/-- A fresh machine with the given events waiting. -/
def waiting (es : List Event) : State :=
  { State.reset with events := es }

/-- A fresh machine with the gate off. -/
def ungated : State :=
  freshState { Params.standard with TARGET_RANGE_GATE := false }

/-! ### Well-formedness: each check refuses an ill-formed term -/

theorem test_wf_refuses_lowest_reserved_bit : Request.wf ⟨0x00000004, 1, 1, 1, 1⟩ = false := by decide
theorem test_wf_refuses_highest_reserved_bit : Request.wf ⟨0x80000000, 1, 1, 1, 1⟩ = false := by decide
theorem test_wf_accepts_every_operand :
    Request.wf ⟨0x3, 0xFFFFFFFF, 0, 0xFFFFFFFF, 0xFFFFFFFF⟩ = true := by decide
theorem test_wf_refuses_small_tcas : Params.wf { Params.standard with TCAS_MIN := 410 } = false := by decide
theorem test_wf_refuses_large_tcas : Params.wf { Params.standard with TCAS_MIN := 4577 } = false := by decide
theorem test_wf_accepts_standard : Params.standard.wf = true := by decide
theorem test_wf_accepts_instr : Instr.wf (.computeTgt true 0 0 0 51) = true := by decide

/-! ### Decoding: words written from R47 and R59 (95_test_vectors.md section 6) -/

theorem test_decode_pure : decode ⟨0x00000000, 0x02DC6C00, 0x00BEBC20, 0, 0x32⟩ =
    .ok (.computeCtrl .pureI3C 48000000 12500000 0 50) := by decide
theorem test_decode_mixed : decode ⟨0x00000002, 0x02DC6C00, 0x00BEBC20, 0x000F4240, 0x32⟩ =
    .ok (.computeCtrl .mixed 48000000 12500000 1000000 50) := by decide
theorem test_decode_tgt : decode ⟨0x00000001, 0x02DC6C00, 0, 0, 0⟩ =
    .ok (.computeTgt false 48000000 0 0 0) := by decide
theorem test_decode_tgt_b : decode ⟨0x00000003, 1, 2, 3, 4⟩ = .ok (.computeTgt true 1 2 3 4) := by decide
theorem test_decode_reserved_low : decode ⟨0x00000004, 1, 2, 3, 4⟩ = .error .reservedCommandBits := by decide
theorem test_decode_reserved_high : decode ⟨0xFFFFFFFD, 1, 2, 3, 4⟩ = .error .reservedCommandBits := by decide
theorem test_decode_four_words : decodeWords [0, 1, 2, 3] = .error .notFiveWords := by decide
theorem test_table_word_mixed : decodeTableWord 32 2 = some (.computeCtrl .mixed 0 0 0 0) := by decide
theorem test_table_word_operands :
    decodeTableWord 160 0x00000004000000030000000200000001_00000001 = some (.computeTgt false 1 2 3 4) := by decide
theorem test_table_word_reserved : decodeTableWord 32 4 = none := by decide
theorem test_opcode_rows_disjoint :
    opcodeTable.Pairwise fun r r' =>
      (r.cmdMask &&& r'.cmdMask) &&& (r.cmdMatch ^^^ r'.cmdMatch) ≠ 0 := by decide

theorem test_opcode_row_of_mixed :
    (opcodeTable.filter fun r => r.covers 0x00000002).map (·.mnemonic) =
      [Instr.mnemonic (.computeCtrl .mixed 0 0 0 0)] := by decide

/-! ### Assembler lines (R60, R61) -/

theorem test_parse_pure : parseLine "COMPUTE_CTRL.PURE 48_000_000, 12_500_000, 0, 50   ; CMD = 0x0" =
    some (.ctrlPure 48000000 12500000 0 50) := by decide
theorem test_parse_short : parseLine "COMPUTE_CTRL.PURE 48_000_000, 12_500_000, 50" =
    some (.ctrlPureShort 48000000 12500000 50) := by decide
theorem test_parse_tgt_hex : parseLine "COMPUTE_TGT       0x02DC6C00" = some (.tgt 48000000) := by decide
theorem test_parse_call : parseLine "ComputeTargetTiming(clockSrcFreq=48_000_000)" =
    some (.tgt 48000000) := by decide
theorem test_parse_too_wide : parseLine "COMPUTE_TGT 4294967296" = none := by decide

/-! ### The instructions, the converter, the packed view (95_test_vectors.md sections 1 to 5, 7) -/

theorem test_period_tie_up : period10ps 64000000 = 1563 ∧ period10ps 48000000 = 2083 := by decide
theorem test_divRound_negative : divRound (-1) 2083 = 0 ∧ divRound (-5000) 2083 = -2 := by decide

theorem test_ctrl_pure_increment :
    AnswersRecord (.computeCtrl .pureI3C 2515041 1000000 0 50) State.reset ⟨1, 0, 1, 0, 1, 1, 0⟩ :=
  ⟨_, rfl, by decide, by decide⟩
theorem test_ctrl_mixed_clamp_up :
    AnswersRecord (.computeCtrl .mixed 32000000 12500000 1000000 50) State.reset
      ⟨0, 1, 15, 15, 14, 30, 0⟩ :=
  ⟨_, rfl, by decide, by decide⟩
theorem test_tgt_top_edge : ∃ t, exec (.computeTgt true 257400257 3 4 5) State.reset = .next t ∧
    t.cfg = some (.target ⟨255⟩) := ⟨_, rfl, by decide⟩
theorem test_tgt_past_top_edge : ∃ t, exec (.computeTgt false 257400258 3 4 5) State.reset = .next t ∧
    t.status = some .error := ⟨_, rfl, by decide⟩
theorem test_packed_program_3 : ControllerTimingConfig.timing0 ⟨7, 7, 71, 0, 40, 198, 0x10000000⟩ = 0x00470707 ∧
    ControllerTimingConfig.timing1 ⟨7, 7, 71, 0, 40, 198, 0x10000000⟩ = 0x102800C6 := by decide
theorem test_fetch_word_runs : step (State.reset.withFetchWord 32 1) =
    .next { State.reset with status := some .error, delivered := [⟨0, .error, none⟩] } := rfl
theorem test_read_before_response : step (waiting [.read 7 .BusIdleDuration]) =
    .fault .readOfNoneConfiguration := rfl

/-! ### Witnesses: a state and operands that meet the hypotheses of each statement -/

/-- The requests of Program 1, Program 2 and Program 3 that the witnesses use. -/
def reqOk : Request := ⟨0, 48000000, 12500000, 0, 50⟩
def reqDuty : Request := ⟨0, 48000000, 12500000, 0, 60⟩
def reqReserved : Request := ⟨4, 48000000, 12500000, 1000000, 50⟩

/-- The record of scenario 1. -/
def scenario1 : ControllerTimingConfig := ⟨1, 1, 18, 0, 10, 46, 0⟩

/-- The state after the request of scenario 1 by host 1. -/
def afterScenario1 (es : List Event) : State :=
  { waiting es with
    status := some .ok, cfg := some (.controller scenario1)
    delivered := [⟨1, ⟨.ok, some (.controller scenario1)⟩⟩] }

theorem witness_reset_inv : State.reset.Inv := by simp [State.Inv, State.reset, State.response]
theorem witness_inv_with_request : (waiting [.request 1 reqOk]).Inv ∧
    ∃ t, step (waiting [.request 1 reqOk]) = .next t ∧ t.cfg = some (.controller scenario1) :=
  ⟨by simp [State.Inv, waiting, State.reset, State.response], _, rfl, by decide⟩
theorem witness_inv_with_read : (afterScenario1 [.read 1 .BusIdleDuration]).Inv ∧
    ∃ t, step (afterScenario1 [.read 1 .BusIdleDuration]) = .next t ∧
      t.observed = [⟨1, .BusIdleDuration, 46⟩] := by
  refine ⟨⟨by decide, ?_, by decide, .inr (by decide)⟩, _, rfl, by decide⟩
  rintro r ⟨⟩
  decide
theorem witness_reset_event : (afterScenario1 [.reset]).events = .reset :: [] ∧
    ∃ t, step (afterScenario1 [.reset]) = .next t ∧ t.cfg = none := ⟨rfl, _, rfl, rfl⟩
theorem witness_decoded_step : (waiting [.request 1 reqOk, .reset]).events = .request 1 reqOk :: [.reset] ∧
    Instr.wf (.computeCtrl .pureI3C 48000000 12500000 0 50) = true ∧ reqOk.CMD.toNat < 4 ∧
    decode reqOk = .ok (.computeCtrl .pureI3C 48000000 12500000 0 50) := by decide
theorem witness_request_alone_gated : State.reset ≠ afterScenario1 [] ∧
    State.reset.params = (afterScenario1 []).params ∧ State.reset.params.TARGET_RANGE_GATE = true := by decide
theorem witness_request_alone_ungated : ungated.params.TARGET_RANGE_GATE = false ∧
    ungated.draws = { ungated with cfg := some (.target ⟨3⟩) }.draws := by decide
theorem witness_error_then_any : ∃ t, exec (.computeCtrl .pureI3C 0 12500000 0 50) State.reset = .next t ∧
    t.status = some .error := ⟨_, rfl, by decide⟩
theorem witness_run_orders : State.reset.params.TARGET_RANGE_GATE = true ∧
    [(1, reqOk), (2, reqReserved)].Perm [(2, reqReserved), (1, reqOk)] ∧
    deliveriesAlone .standard [(1, reqOk), (2, reqReserved)] =
      [⟨1, ⟨.ok, some (.controller scenario1)⟩⟩] :=
  ⟨rfl, List.Perm.swap .., by decide⟩
theorem witness_reserved_bits : (waiting [.request 1 reqReserved]).events = .request 1 reqReserved :: [] ∧
    (4 : Word).getLsbD 2 = true ∧ (0x80000000 : Word).getLsbD 31 = true := by decide
theorem witness_packed_position :
    (1 : Word) <<< (24 : Fin 32).val = 0x01000000 ∧ (1 : Word) <<< (31 : Fin 32).val = 0x80000000 := by decide
theorem witness_div_round : (0 : Int) < 1 ∧ (0 : Int) < 2 ∧ (3 : Int) % 2 = 1 := by decide
theorem witness_period_order : (1 : Word) ≠ 0 ∧ (1 : Word).toNat ≤ (4294967295 : Word).toNat := by decide

/-- Scenario 1: the duty path, both open-drain recomputes. -/
theorem witness_pure_rules : PureRules .standard 48000000 12500000 50 2083 ⟨1, 1, 18, 0, 10, 46⟩ ∧
    Counts.Fit ⟨1, 1, 18, 0, 10, 46⟩ ∧ (50 : Word).toNat ≤ 50 :=
  ⟨⟨8000, 4000, 1, 1, 9, by decide, by decide, by decide, by decide, by decide, by decide,
    ⟨1, by decide⟩, by decide, by decide, by decide, by decide, by decide, by decide, by decide⟩,
    by decide, by decide⟩
/-- Duty 0 takes the minimum-high path. -/
theorem witness_pure_rules_min_high : PureRules .standard 40000000 12500000 0 2500 ⟨1, 0, 15, 0, 9, 38⟩ ∧
    Counts.Fit ⟨1, 0, 15, 0, 9, 38⟩ :=
  ⟨⟨8000, 0, -1, 1, 7, by decide, by decide, by decide, by decide, by decide, by decide,
    ⟨1, by decide⟩, by decide, by decide, by decide, by decide, by decide, by decide, by decide⟩,
    by decide⟩
/-- The first correction fires. -/
theorem witness_pure_rules_decrement : PureRules .standard 40000000 12500000 50 2500 ⟨0, 1, 15, 0, 9, 38⟩ :=
  ⟨8000, 4000, 1, 1, 7, by decide, by decide, by decide, by decide, by decide, by decide,
    ⟨0, by decide⟩, by decide, by decide, by decide, by decide, by decide, by decide, by decide⟩
/-- The second correction fires, and the open-drain low reuses the corrected low count. -/
theorem witness_pure_rules_increment : PureRules .standard 2515041 1000000 50 39761 ⟨1, 0, 1, 0, 1, 1⟩ :=
  ⟨100000, 50000, 0, 0, 1, by decide, by decide, by decide, by decide, by decide, by decide,
    ⟨0, by decide⟩, by decide, by decide, by decide, by decide, by decide, by decide, by decide⟩
/-- `Tpp = 20000` exactly. -/
theorem witness_pure_rules_boundary : PureRules .standard 80000000 5000000 50 1250 ⟨7, 7, 29, 0, 17, 78⟩ :=
  ⟨20000, 10000, 7, 7, 7, by decide, by decide, by decide, by decide, by decide, by decide,
    ⟨7, by decide⟩, by decide, by decide, by decide, by decide, by decide, by decide, by decide⟩
/-- A negative count: the clock of scenario 6. -/
theorem witness_pure_rules_unfit :
    PureRules .standard 1000 12500000 50 100000000 ⟨-1, -1, 1, 0, 1, -2⟩ ∧
    ¬ Counts.Fit ⟨-1, -1, 1, 0, 1, -2⟩ :=
  ⟨⟨8000, 4000, -1, -1, -1, by decide, by decide, by decide, by decide, by decide, by decide,
    ⟨-1, by decide⟩, by decide, by decide, by decide, by decide, by decide, by decide, by decide⟩,
    by decide⟩

/-- Clamp down, Fast-Mode-Plus floor. -/
theorem witness_mixed_rules :
    MixedRules .standard 48000000 12500000 1000000 50 2083 ⟨2, 0, 23, 23, 20, 46⟩ ∧
    Counts.Fit ⟨2, 0, 23, 23, 20, 46⟩ :=
  ⟨⟨8000, 100000, 1, 2, 50000, 23, 50000, by decide, by decide, by decide, by decide, by decide,
    by decide, by decide, by decide, ⟨2, by decide⟩, by decide, by decide, by decide, by decide,
    by decide, by decide, by decide, by decide, by decide⟩, by decide⟩
/-- Clamp up. -/
theorem witness_mixed_rules_clamp_up :
    MixedRules .standard 32000000 12500000 1000000 50 3125 ⟨0, 1, 15, 15, 14, 30⟩ :=
  ⟨8000, 100000, 0, 0, 50000, 15, 50000, by decide, by decide, by decide, by decide, by decide,
    by decide, by decide, by decide, ⟨0, by decide⟩, by decide, by decide, by decide, by decide,
    by decide, by decide, by decide, by decide, by decide⟩
/-- `Tod = TFM_MIN` exactly takes the Fast-Mode floor. -/
theorem witness_mixed_rules_fast_mode :
    MixedRules .standard 48000000 12500000 400000 50 2083 ⟨2, 0, 61, 57, 39, 46⟩ :=
  ⟨8000, 250000, 1, 2, 125000, 59, 130000, by decide, by decide, by decide, by decide, by decide,
    by decide, by decide, by decide, ⟨2, by decide⟩, by decide, by decide, by decide, by decide,
    by decide, by decide, by decide, by decide, by decide⟩
/-- Duty 0 leaves the I2C high count negative. -/
theorem witness_mixed_rules_unfit :
    MixedRules .standard 48000000 12500000 1000000 0 2083 ⟨2, 0, 47, -1, 32, 46⟩ ∧
    ¬ Counts.Fit ⟨2, 0, 47, -1, 32, 46⟩ :=
  ⟨⟨8000, 100000, 1, 2, 0, 47, 50000, by decide, by decide, by decide, by decide, by decide,
    by decide, by decide, by decide, ⟨2, by decide⟩, by decide, by decide, by decide, by decide,
    by decide, by decide, by decide, by decide, by decide⟩, by decide⟩
/-- All hypotheses of the two commit statements together, from the reset state; on the Mixed bus at the
Standard-Mode limit, `Tod = 1000000`. -/
theorem witness_pure_commit_hypotheses : (48000000 : Word) ≠ 0 ∧ (12500000 : Word) ≠ 0 ∧
    (50 : Word).toNat ≤ 50 ∧
    PureRules State.reset.params 48000000 12500000 50 2083 ⟨1, 1, 18, 0, 10, 46⟩ ∧
    Counts.Fit ⟨1, 1, 18, 0, 10, 46⟩ :=
  ⟨by decide, by decide, by decide, witness_pure_rules.1, witness_pure_rules.2.1⟩
theorem witness_mixed_commit_hypotheses : (48000000 : Word) ≠ 0 ∧ (12500000 : Word) ≠ 0 ∧
    (100000 : Word) ≠ 0 ∧ (50 : Word).toNat ≤ 50 ∧
    (∀ Tod, RoundsTo 100000000000 (100000 : Word).toNat Tod → Tod ≤ 1000000) ∧
    MixedRules State.reset.params 48000000 12500000 100000 50 2083 ⟨2, 0, 239, 239, 128, 46⟩ ∧
    Counts.Fit ⟨2, 0, 239, 239, 128, 46⟩ := by
  refine ⟨by decide, by decide, by decide, by decide, ?_,
    ⟨8000, 1000000, 1, 2, 500000, 239, 130000, by decide, by decide, by decide, by decide, by decide,
      by decide, by decide, by decide, ⟨2, by decide⟩, by decide, by decide, by decide, by decide,
      by decide, by decide, by decide, by decide, by decide⟩, by decide⟩
  intro Tod h
  have hf : (100000 : Word).toNat = 100000 := by decide
  rw [hf] at h
  omega
/-- The Standard-Mode limit: 100 kHz passes R73 at equality, 99999 Hz does not. -/
theorem witness_standard_mode : RoundsTo 100000000000 (100000 : Word).toNat 1000000 ∧
    RoundsTo 100000000000 (99999 : Word).toNat 1000010 := by decide

theorem witness_record_flag_clear :
    AnswersRecord (.computeCtrl .pureI3C 166389351 12500000 0 50) State.reset
      ⟨5, 6, 59, 0, 33, 164, 0⟩ ∧ RoundsTo 100000000000 (166389351 : Word).toNat 601 :=
  ⟨⟨_, rfl, by decide, by decide⟩, by decide⟩
theorem witness_record_flag_set :
    AnswersRecord (.computeCtrl .pureI3C 166666667 12500000 0 50) State.reset
      ⟨5, 6, 59, 0, 33, 165, 0x10000000⟩ ∧ RoundsTo 100000000000 (166666667 : Word).toNat 600 ∧
    RoundsTo 100000000000 (12500000 : Word).toNat 8000 :=
  ⟨⟨_, rfl, by decide, by decide⟩, by decide⟩
theorem witness_record_mixed :
    AnswersRecord (.computeCtrl .mixed 160000000 12500000 1000000 33) State.reset
      ⟨6, 5, 106, 52, 82, 158, 0⟩ ∧ RoundsTo 100000000000 (160000000 : Word).toNat 625 ∧
    RoundsTo 100000000000 (1000000 : Word).toNat 100000 :=
  ⟨⟨_, rfl, by decide, by decide⟩, by decide⟩
theorem witness_correction_fires : (1 : Int) ≤ 2500 ∧ correctOvershoot 2500 8000 1 1 ≠ 1 := by decide
theorem witness_idle_edges : (1500004 : Word) ≠ 0 ∧ oneUs (period10ps 1500004) = 0 ∧
    oneUs (period10ps 1500003) = -1 ∧ oneUs (period10ps 257400257) = 255 ∧
    oneUs (period10ps 257400258) = 256 := by decide
theorem witness_target_gated : RoundsTo 100000000000 (257400258 : Word).toNat 388 ∧
    RoundsTo 100000 388 (256 + 2) ∧ State.reset.params.TARGET_RANGE_GATE = true := by decide
theorem witness_target_fits : RoundsTo 100000000000 (1500004 : Word).toNat 66666 ∧
    RoundsTo 100000 66666 (0 + 2) := by decide
theorem witness_target_ungated : RoundsTo 100000000000 (1500003 : Word).toNat 66667 ∧
    RoundsTo 100000 66667 (-1 + 2) ∧ ungated.params.TARGET_RANGE_GATE = false := by decide
theorem witness_tcas_edges : (411 : Nat) ≤ 411 ∧ (411 : Nat) ≤ 4576 ∧ ¬ ((411 : Nat) ≤ 410) := by decide
theorem witness_read_of_error : ∃ t,
    step (waiting [.request 1 reqDuty, .read 1 .SCLPPLowDuration]) = .next t ∧
    t.status = some .error ∧ t.events = [.read 1 .SCLPPLowDuration] := ⟨_, rfl, by decide, by decide⟩
theorem witness_read_of_older_error : ∃ s : State, s.Inv ∧
    s.events = .read 1 .BusFreeDuration :: [] ∧ lastResponse 1 s.delivered = some ⟨.error, none⟩ ∧
    s.status = some .ok := by
  refine ⟨{ afterScenario1 [.read 1 .BusFreeDuration] with
    delivered := [⟨1, ⟨.error, none⟩⟩, ⟨2, ⟨.ok, some (.controller scenario1)⟩⟩] },
    ⟨by decide, ?_, by decide, .inr (by decide)⟩, rfl, by decide, rfl⟩
  rintro r ⟨⟩
  decide
theorem witness_read_by_host_without_response :
    (afterScenario1 [.read 2 .BusIdleDuration]).events = .read 2 .BusIdleDuration :: [] ∧
    ∀ d ∈ (afterScenario1 [.read 2 .BusIdleDuration]).delivered, d.host ≠ 2 := by decide
theorem witness_read_of_other_record :
    (afterScenario1 [.read 1 .BusAvailableDuration]).events = .read 1 .BusAvailableDuration :: [] ∧
    lastResponse 1 (afterScenario1 [.read 1 .BusAvailableDuration]).delivered =
      some ⟨.ok, some (.controller scenario1)⟩ ∧
    CfgField.BusIdleDuration ≠ .BusAvailableDuration := by decide
theorem test_read_after_two_responses : step { waiting [.read 1 .SCLPPLowDuration] with
      delivered := [⟨1, ⟨.ok, some (.controller scenario1)⟩⟩, ⟨1, ⟨.ok, some (.target ⟨46⟩)⟩⟩] } =
    .fault .readOfOtherRecord := rfl
theorem witness_host_read_controller : lastResponse 1 (afterScenario1 [.read 1 .SCLODLowDuration]).delivered =
    some ⟨.ok, some (.controller scenario1)⟩ ∧
    (afterScenario1 [.read 1 .SCLODLowDuration]).events = .read 1 .SCLODLowDuration :: [] := by decide
theorem witness_host_read_target :
    lastResponse 2 [⟨2, ⟨.ok, some (.target ⟨46⟩)⟩⟩, ⟨1, ⟨.error, none⟩⟩] =
      some ⟨.ok, some (.target ⟨46⟩)⟩ := by decide

end Sys2Proof.Machine
end

section
/-! PROOFS. The response of an operation as one value of the request, the parameters and the draw; what each
state operation does to the invariant; and what a step does with a host's read. -/

namespace Sys2Proof.Machine

/-! ### The result an instruction ends with -/

/-- The result `exec` responds with: the record, or the cause of InvalidTiming. The draw counter matters to an
ungated COMPUTE_TGT only (R105; log entry 6). -/
def execResult (prm : Params) (draws : Nat) : Instr → Except Cause TimingConfig
  | .computeCtrl bus clk f3 f2 duty => (ctrlResult prm bus clk f3 f2 duty).map .controller
  | .computeTgt _ clk _ _ _ => (targetResult prm (Config.freeByte draws) clk).map .target

/-- The response that reports a result (R18, R106). -/
def Response.ofResult : Except Cause TimingConfig → Response
  | .ok c => ⟨.ok, some c⟩
  | .error _ => ⟨.error, none⟩

/-- A response at the output is its two fields. -/
theorem State.response_eq_some {s : State} {r : Response} :
    s.response = some r ↔ s.status = some r.status ∧ s.cfg = r.cfg := by
  obtain ⟨st, cfg⟩ := r
  unfold State.response
  cases s.status <;> simp

theorem State.response_eq_none {s : State} : s.response = none ↔ s.status = none := by
  unfold State.response
  cases s.status <;> simp

theorem State.respond_response_ofResult (s : State) (r : Except Cause TimingConfig) :
    (s.respond r).response = some (.ofResult r) := by
  cases r <;> rfl

/-- Whether it draws or not, an instruction responds with its result. -/
theorem exec_responds (i : Instr) (s : State) :
    exec i s = .next (s.respond (execResult s.params s.draws i)) ∨
    exec i s = .next (s.draw.respond (execResult s.params s.draws i)) := by
  cases i with
  | computeCtrl bus clk f3 f2 duty => exact .inl rfl
  | computeTgt b clk f3 f2 duty =>
    simp only [exec, execComputeTgt, execResult]
    split
    · exact .inr rfl
    · exact .inl rfl

/-- An instruction completes with the response of its result at the output. -/
theorem exec_response (i : Instr) (s : State) :
    ∃ t, exec i s = .next t ∧ t.response = some (.ofResult (execResult s.params s.draws i)) := by
  rcases exec_responds i s with h | h
  · exact ⟨_, h, s.respond_response_ofResult _⟩
  · exact ⟨_, h, s.draw.respond_response_ofResult _⟩

theorem response_of_exec {i : Instr} {s t : State} (h : exec i s = .next t) :
    t.response = some (.ofResult (execResult s.params s.draws i)) := by
  obtain ⟨u, hu, hr⟩ := exec_response i s
  obtain rfl : t = u := Host.Outcome.next.inj (h.symm.trans hu)
  exact hr

/-- With the gate on, the free value is not used (R105). -/
theorem targetResult_of_gated {prm : Params} (hg : prm.TARGET_RANGE_GATE = true) (free free' : Byte)
    (clk : Word) : targetResult prm free clk = targetResult prm free' clk := by
  simp [targetResult, hg]

theorem execResult_of_gated {prm : Params} (hg : prm.TARGET_RANGE_GATE = true) (n n' : Nat) (i : Instr) :
    execResult prm n i = execResult prm n' i := by
  cases i with
  | computeCtrl bus clk f3 f2 duty => rfl
  | computeTgt b clk f3 f2 duty =>
    exact congrArg (Except.map _) (targetResult_of_gated hg (Config.freeByte n) (Config.freeByte n') clk)

/-! ### Every response is consistent -/

/-- The SDA-hold field holds the flag at its position or nothing (R53). -/
theorem sdaHoldField_flag (prm : Params) (flag : Bool) :
    sdaHoldField prm flag = 0#32 ∨ sdaHoldField prm flag = 1#32 <<< prm.SDA_HOLD_BIT_POS.val := by
  cases flag <;> simp [sdaHoldField]

theorem ctrlResult_flagEncoded {prm : Params} {bus : BusType} {clk f3 f2 duty : Word}
    {c : ControllerTimingConfig} (h : ctrlResult prm bus clk f3 f2 duty = .ok c) :
    flagEncoded prm (some (.controller c)) = true := by
  obtain ⟨-, -, -, -, rfl⟩ := ctrlResult_ok.mp h
  simpa [flagEncoded, Counts.record] using sdaHoldField_flag prm (sdaHold (period10ps clk))

theorem Response.consistent_ok {prm : Params} {c : TimingConfig} :
    (Response.mk .ok (some c)).consistent prm = flagEncoded prm (some c) := by
  simp [Response.consistent]

theorem Response.consistent_error {prm : Params} : (Response.mk .error none).consistent prm = true := rfl

theorem execResult_consistent (prm : Params) (n : Nat) (i : Instr) :
    (Response.ofResult (execResult prm n i)).consistent prm = true := by
  cases i with
  | computeCtrl bus clk f3 f2 duty =>
    simp only [execResult]
    cases h : ctrlResult prm bus clk f3 f2 duty with
    | ok c => exact Response.consistent_ok.trans (ctrlResult_flagEncoded h)
    | error e => exact Response.consistent_error
  | computeTgt b clk f3 f2 duty =>
    simp only [execResult]
    cases targetResult prm (Config.freeByte n) clk with
    | ok c => exact Response.consistent_ok
    | error e => exact Response.consistent_error

/-! ### What keeps the invariant -/

/-- The invariant speaks of the parameters, the output and the deliveries only. -/
theorem State.Inv.congr {s t : State} (h : s.Inv) (hp : t.params = s.params) (hs : t.status = s.status)
    (hc : t.cfg = s.cfg) (hd : t.delivered = s.delivered) : t.Inv := by
  have hr : t.response = s.response := by simp only [State.response, hs, hc]
  simpa only [State.Inv, hp, hs, hc, hd, hr] using h

theorem State.Inv.withEvents {s : State} (h : s.Inv) (rest : List Event) : (s.withEvents rest).Inv :=
  h.congr rfl rfl rfl rfl

/-- With no response at the output, the invariant is a matter of the deliveries. -/
theorem State.inv_of_no_response {s : State} (hs : s.status = none) (hc : s.cfg = none)
    (hd : ∀ d ∈ s.delivered, d.response.consistent s.params = true) : s.Inv := by
  have hr : s.response = none := State.response_eq_none.mpr hs
  exact ⟨fun _ => hc, by simp [hr], hd, .inl hr⟩

theorem State.Inv.resetBlock {s : State} (h : s.Inv) : s.resetBlock.Inv := by
  obtain ⟨-, -, hdel, -⟩ := h
  exact State.inv_of_no_response rfl rfl hdel

@[simp] theorem State.served_response (s : State) (n host : Nat) (r : Response) :
    (s.served n host r).response = some r := rfl

@[simp] theorem State.served_delivered (s : State) (n host : Nat) (r : Response) :
    (s.served n host r).delivered = s.delivered ++ [⟨host, r⟩] := rfl

/-- A consistent response, delivered in the step that writes it, is the last delivery (R42). -/
theorem State.Inv.served {s : State} (h : s.Inv) (n host : Nat) {r : Response}
    (hr : r.consistent s.params = true) : (s.served n host r).Inv := by
  obtain ⟨-, -, hdel, -⟩ := h
  refine ⟨nofun, ?_, ?_, .inr ?_⟩
  · rintro r' ⟨⟩
    exact hr
  · intro d hd
    rcases List.mem_append.mp hd with hd | hd
    · exact hdel d hd
    · obtain rfl := List.mem_singleton.mp hd
      exact hr
  · simp

theorem step_keeps_inv {s t : State} (h : s.Inv) (hst : step s = .next t) : t.Inv := by
  rcases step_cases hst with ⟨-, rfl⟩ | ⟨host, q, rest, i, n, r, -, -, hx, -, rfl⟩ |
    ⟨host, f, rest, v, -, -, rfl⟩ | ⟨rest, -, rfl⟩
  case inl => exact h
  case inr.inl =>
    have hr : r = .ofResult (execResult s.params s.draws i) := Option.some.inj (response_of_exec hx)
    exact (h.withEvents rest).served n host (hr ▸ execResult_consistent s.params s.draws i)
  case inr.inr.inl => exact h.congr rfl rfl rfl rfl
  case inr.inr.inr => exact (h.withEvents rest).resetBlock

/-! ### A host's read -/

theorem step_read {s : State} {host : Nat} {f : CfgField} {rest : List Event}
    (he : s.events = .read host f :: rest) : step s = (s.withEvents rest).hostRead host f := by
  simp [step, he, serveEvent]

/-- A read of a value takes the event and records it. -/
theorem step_read_of_ok {s : State} {host : Nat} {f : CfgField} {rest : List Event} {v : Word}
    (he : s.events = .read host f :: rest)
    (hv : readResponse f (lastResponse host s.delivered) = .ok v) :
    step s = .next { s with events := rest, observed := s.observed ++ [⟨host, f, v⟩] } := by
  simp [step_read he, State.hostRead, hv, State.withEvents]

theorem step_read_of_error {s : State} {host : Nat} {f : CfgField} {rest : List Event} {e : Fault}
    (he : s.events = .read host f :: rest)
    (hv : readResponse f (lastResponse host s.delivered) = .error e) : step s = .fault e := by
  simp [step_read he, State.hostRead, hv]

theorem readResponse_of_field {f : CfgField} {st : Status} {c : TimingConfig} {v : Word}
    (h : readField f c = some v) : readResponse f (some ⟨st, some c⟩) = .ok v := by
  simp [readResponse, h]

theorem readResponse_of_no_field {f : CfgField} {st : Status} {c : TimingConfig}
    (h : readField f c = none) : readResponse f (some ⟨st, some c⟩) = .error .readOfOtherRecord := by
  simp [readResponse, h]

theorem readField_target_of_ne {f : CfgField} (c : TargetTimingConfig) (h : f ≠ .BusAvailableDuration) :
    readField f (.target c) = none := by
  cases f with
  | BusAvailableDuration => exact absurd rfl h
  | _ => rfl

/-- The fields of a controller's record with their values as naturals (R19). -/
def ControllerTimingConfig.fieldValues (c : ControllerTimingConfig) : List (CfgField × Nat) :=
  [(.SCLPPLowDuration, c.SCLPPLowDuration.toNat), (.SCLI3CHighDuration, c.SCLI3CHighDuration.toNat),
    (.SCLODLowDuration, c.SCLODLowDuration.toNat), (.SCLI2CHighDuration, c.SCLI2CHighDuration.toNat),
    (.BusFreeDuration, c.BusFreeDuration.toNat), (.BusIdleDuration, c.BusIdleDuration.toNat),
    (.SDAHoldTime, c.SDAHoldTime.toNat)]

theorem readField_controller {c : ControllerTimingConfig} {fv : CfgField × Nat}
    (h : fv ∈ c.fieldValues) : readField fv.1 (.controller c) = some (BitVec.ofNat 32 fv.2) := by
  simp only [ControllerTimingConfig.fieldValues, List.mem_cons, List.not_mem_nil, or_false] at h
  rcases h with rfl | rfl | rfl | rfl | rfl | rfl | rfl <;> simp [readField]

theorem readField_target (c : TargetTimingConfig) :
    readField .BusAvailableDuration (.target c) = some (BitVec.ofNat 32 c.BusAvailableDuration.toNat) := by
  simp [readField]

/-- A host that no delivery names has no last response. -/
theorem lastResponse_eq_none {host : Nat} {ds : List Delivery} (h : ∀ d ∈ ds, d.host ≠ host) :
    lastResponse host ds = none := by
  induction ds with
  | nil => rfl
  | cons d ds ih =>
    obtain ⟨hd, hds⟩ := List.forall_mem_cons.mp h
    simp [lastResponse, ih hds, hd]

end Sys2Proof.Machine
end

section
/-! PROOFS. The statements about the state: reset, the invariant, the frames, what a response depends on, and
the hosts' reads. -/

namespace Sys2Proof.Machine

/-- Settles O3: of the four things a step can do, only serving a request writes a response, and that one is
consistent and delivered at once. -/
theorem everyStepKeepsInvariant : Obligations.EveryStepKeepsInvariant :=
  fun _ _ => step_keeps_inv

/-- Settles O4, from all that `exec` can do. -/
theorem execFrame : Obligations.ExecFrame := by
  intro i s
  obtain ⟨n, r, hx, -, hn⟩ := exec_cases i s
  refine ⟨_, hx, rfl, rfl, rfl, rfl, nofun, ?_⟩
  rcases hn with rfl | ⟨rfl, hg, b, clk, f3, f2, duty, hi, -⟩
  · exact .inl rfl
  · exact .inr ⟨hg, rfl, b, clk, f3, f2, duty, hi⟩

/-- Settles O5, from the four things a step can do. -/
theorem stepFrame : Obligations.StepFrame := by
  intro s t hst
  rcases step_cases hst with ⟨he, rfl⟩ | ⟨host, q, rest, i, n, r, he, -, -, -, rfl⟩ |
    ⟨host, f, rest, v, he, -, rfl⟩ | ⟨rest, he, rfl⟩
  case inl => simp [he]
  case inr.inl => simp [he, State.served]
  case inr.inr.inl => simp [he]
  case inr.inr.inr => simp [he]

/-- Settles O8: the response is that of `execResult`, which reads the parameters, and the draw only with the
gate off. -/
theorem responseDependsOnRequestAlone : Obligations.ResponseDependsOnRequestAlone := by
  intro i s s' hp hdraw
  have hres : execResult s.params s.draws i = execResult s'.params s'.draws i := by
    rw [← hp]
    rcases hdraw with hg | hn
    · exact execResult_of_gated hg s.draws s'.draws i
    · rw [hn]
  obtain ⟨t, ht, hr⟩ := exec_response i s
  obtain ⟨t', ht', hr'⟩ := exec_response i s'
  exact ⟨t, t', ht, ht', by rw [hr, hr', hres], by simp [hr]⟩

/-- Settles O38: STATUS and CFG are those of the result, whose record is of the operation's kind. -/
theorem configurationKindMatchesOperation : Obligations.ConfigurationKindMatchesOperation := by
  intro i s t hx
  obtain ⟨hs, hc⟩ := State.response_eq_some.mp (response_of_exec hx)
  rw [hs, hc]
  cases i with
  | computeCtrl bus clk f3 f2 duty =>
    simp only [execResult]
    cases ctrlResult s.params bus clk f3 f2 duty <;> simp [Except.map, Response.ofResult]
  | computeTgt b clk f3 f2 duty =>
    simp only [execResult]
    cases targetResult s.params (Config.freeByte s.draws) clk <;> simp [Except.map, Response.ofResult]

/-- Settles O41: each field of the last record is read as its own value. -/
theorem hostReadReturnsTheField : Obligations.HostReadReturnsTheField := by
  intro s host rest
  constructor
  · intro c hl fv hfv he
    exact step_read_of_ok he (hl ▸ readResponse_of_field (readField_controller hfv))
  · intro c hl he
    exact step_read_of_ok he (hl ▸ readResponse_of_field (readField_target c))

/-- Settles O42: there is no last response, or its record lacks the field. -/
theorem readWithoutTheFieldFaults : Obligations.ReadWithoutTheFieldFaults := by
  refine ⟨?_, ?_, ?_⟩
  · intro s host f rest he hnone
    exact step_read_of_error he (by rw [lastResponse_eq_none hnone]; rfl)
  · intro s host rest st c he hl
    exact step_read_of_error he (hl ▸ readResponse_of_no_field rfl)
  · intro s host f rest st c hf he hl
    exact step_read_of_error he (hl ▸ readResponse_of_no_field (readField_target_of_ne c hf))

/-- Settles O1: the fields of `State.reset`, and a step with no event waiting. -/
theorem resetIsIdleWithNoResponse : Obligations.ResetIsIdleWithNoResponse :=
  ⟨rfl, rfl, rfl, rfl, rfl⟩

/-- Settles O2: no response at the output and none delivered. -/
theorem resetMeetsInvariant : Obligations.ResetMeetsInvariant :=
  fun _ => State.inv_of_no_response rfl rfl nofun

end Sys2Proof.Machine
end

section
/-! PROOFS. Serving order: with the gate on, each request of a run is answered as when it is served alone, so
that the deliveries of a run are a function of the requests, one by one. -/

namespace Sys2Proof.Machine

/-! ### The response of a request served alone -/

/-- The reserved bits of a command word are 0 exactly for the words 0 to 3 (R47). -/
theorem reservedBits_eq_zero_iff (w : Word) : w.extractLsb 31 2 = 0 ↔ w.toNat < 4 := by
  have := w.isLt
  have hq : (w.extractLsb 31 2).toNat = w.toNat / 4 := by
    rw [BitVec.extractLsb_toNat, Nat.shiftRight_eq_div_pow]
    omega
  rw [← BitVec.toNat_inj, hq, BitVec.ofNat_eq_ofNat, BitVec.toNat_ofNat, Nat.zero_mod]
  omega

theorem serveRequest_of_decode_error {q : Request} {e : DecodeError} (h : decode q = .error e)
    (host : Nat) (s : State) : serveRequest host q s = .refused .reservedCommandBits := by
  simp [serveRequest, h]

theorem serveRequest_of_decode_ok {q : Request} {i : Instr} (h : decode q = .ok i) (host : Nat)
    (s : State) :
    ∃ n, serveRequest host q s =
      .next (s.served n host (.ofResult (execResult s.params s.draws i))) := by
  obtain ⟨n, r, hx, -, -⟩ := exec_cases i s
  obtain rfl : r = .ofResult (execResult s.params s.draws i) := Option.some.inj (response_of_exec hx)
  exact ⟨n, by simp [serveRequest, h, hx, deliverOutcome, deliver_written]⟩

theorem responseAlone_of_decode_error {q : Request} {e : DecodeError} (h : decode q = .error e)
    (prm : Params) : responseAlone prm q = none := by
  simp [responseAlone, serveRequest_of_decode_error h]

theorem responseAlone_of_decode_ok {q : Request} {i : Instr} (h : decode q = .ok i) (prm : Params) :
    responseAlone prm q = some (.ofResult (execResult prm 0 i)) := by
  obtain ⟨n, hs⟩ := serveRequest_of_decode_ok h 0 (freshState prm)
  simp only [responseAlone, hs, State.served_response]
  rfl

/-- A request without a reserved bit has a response (R126). -/
theorem responseAlone_ne_none {q : Request} (h : q.CMD.toNat < 4) (prm : Params) :
    responseAlone prm q ≠ none := by
  cases hd : decode q with
  | error e => exact absurd ((reservedBits_eq_zero_iff q.CMD).mpr h) (decode_error.mp hd).1
  | ok i => simp [responseAlone_of_decode_ok hd]

/-- With the gate on, any state serves a request as a fresh machine does: refused without a response, or that
response delivered (R13, R50). -/
theorem serveRequest_as_alone {s : State} (hg : s.params.TARGET_RANGE_GATE = true) (host : Nat)
    (q : Request) :
    (responseAlone s.params q = none ∧ serveRequest host q s = .refused .reservedCommandBits) ∨
    (∃ n r, responseAlone s.params q = some r ∧ serveRequest host q s = .next (s.served n host r)) := by
  cases hd : decode q with
  | error e =>
    exact .inl ⟨responseAlone_of_decode_error hd s.params, serveRequest_of_decode_error hd host s⟩
  | ok i =>
    obtain ⟨n, hs⟩ := serveRequest_of_decode_ok hd host s
    rw [execResult_of_gated hg s.draws 0 i] at hs
    exact .inr ⟨n, _, responseAlone_of_decode_ok hd s.params, hs⟩

/-! ### A run over requests -/

theorem runEvents_succ_of_next {n : Nat} {s t : State} (h : step s = .next t) :
    runEvents (n + 1) s = runEvents n t := by
  simp [runEvents, h]

theorem runEvents_succ_of_refused {n : Nat} {s : State} {r : Refusal} (h : step s = .refused r) :
    runEvents (n + 1) s = runEvents n s.dropEvent := by
  simp [runEvents, h]

@[simp] theorem State.served_params (s : State) (n host : Nat) (r : Response) :
    (s.served n host r).params = s.params := rfl

theorem step_request (s : State) (r : Nat × Request) (reqs : List (Nat × Request)) :
    step (s.withEvents (requestEvents (r :: reqs))) =
      serveRequest r.1 r.2 (s.withEvents (requestEvents reqs)) := rfl

theorem deliveriesAlone_cons_of_none {prm : Params} {r : Nat × Request}
    (h : responseAlone prm r.2 = none) (reqs : List (Nat × Request)) :
    deliveriesAlone prm (r :: reqs) = deliveriesAlone prm reqs := by
  simp [deliveriesAlone, h]

theorem deliveriesAlone_cons_of_some {prm : Params} {r : Nat × Request} {a : Response}
    (h : responseAlone prm r.2 = some a) (reqs : List (Nat × Request)) :
    deliveriesAlone prm (r :: reqs) = ⟨r.1, a⟩ :: deliveriesAlone prm reqs := by
  simp [deliveriesAlone, h]

/-- By induction on the requests: a refused one is dropped, any other one adds its delivery, and what is left
is a run of the remaining requests under the same parameters (R127; log entry 8). -/
theorem runEvents_requests (reqs : List (Nat × Request)) (s : State)
    (hg : s.params.TARGET_RANGE_GATE = true) :
    ∃ t, runEvents reqs.length (s.withEvents (requestEvents reqs)) = .ok t ∧
      t.events = [] ∧ t.params = s.params ∧
      t.delivered = s.delivered ++ deliveriesAlone s.params reqs := by
  induction reqs generalizing s with
  | nil => exact ⟨s.withEvents [], rfl, rfl, rfl, (List.append_nil _).symm⟩
  | cons r reqs ih =>
    have hstep := step_request s r reqs
    have hserve := serveRequest_as_alone (s := s.withEvents (requestEvents reqs)) hg r.1 r.2
    rw [State.withEvents_params] at hserve
    rcases hserve with ⟨hnone, hs⟩ | ⟨n, a, hsome, hs⟩
    · obtain ⟨t, ht, he, hp, hd⟩ := ih s hg
      refine ⟨t, (runEvents_succ_of_refused (hstep.trans hs)).trans ht, he, hp, ?_⟩
      rw [hd, deliveriesAlone_cons_of_none hnone]
    · obtain ⟨t, ht, he, hp, hd⟩ := ih (s.served n r.1 a) hg
      refine ⟨t, (runEvents_succ_of_next (hstep.trans hs)).trans ht, he, hp, ?_⟩
      rw [hd, deliveriesAlone_cons_of_some hsome, State.served_delivered, State.served_params,
        List.append_assoc, List.singleton_append]

/-- The same requests in another order have the same deliveries, up to order. -/
theorem deliveriesAlone_perm (prm : Params) {reqs reqs' : List (Nat × Request)}
    (h : reqs.Perm reqs') : (deliveriesAlone prm reqs).Perm (deliveriesAlone prm reqs') :=
  h.filterMap _

/-- Settles O11: the answer to a request, in either order, is its response when served alone. -/
theorem servingOrderDoesNotMatter : Obligations.ServingOrderDoesNotMatter := by
  intro s reqs reqs' hg hperm
  obtain ⟨t, ht, -, -, hd⟩ := runEvents_requests reqs s hg
  obtain ⟨t', ht', -, -, hd'⟩ := runEvents_requests reqs' s hg
  refine ⟨t, t', responseAlone s.params, ht, ht', hd, hd', fun q hq => responseAlone_ne_none hq _, ?_⟩
  rw [hd, hd']
  exact (deliveriesAlone_perm s.params hperm).append_left s.delivered

end Sys2Proof.Machine
end

section
/-! PROOFS. The encoding: the command word of a request is its operation bit and its bus bit, so that the
encoder and the decoder are inverse to each other (R47 to R50), and every way to write a request comes down
to that: command words, opcode rows, assembler lines. -/

namespace Sys2Proof.Machine

/-! ### Command words -/

/-- The command words without a reserved bit (R49). -/
theorem reservedBits_eq_zero_cases {w : Word} :
    w.extractLsb 31 2 = 0 ↔ w = 0 ∨ w = 1 ∨ w = 2 ∨ w = 3 := by
  rw [reservedBits_eq_zero_iff]
  bv_omega

/-- Such a word holds the operation bit and bit 1 and nothing else (R47). -/
theorem eq_commandWord_of_reservedBits {w : Word} (h : w.extractLsb 31 2 = 0) :
    w = commandWord (w.getLsbD 0) (w.getLsbD 1) := by
  rcases reservedBits_eq_zero_cases.mp h with rfl | rfl | rfl | rfl <;> rfl

theorem commandWord_reservedBits (r b : Bool) : (commandWord r b).extractLsb 31 2 = 0 :=
  eq_of_beq (Laws.EncodeWellFormed.commandWord_reserved r b)

theorem commandWord_bit0 (r b : Bool) : (commandWord r b).getLsbD 0 = r := by
  cases r <;> cases b <;> rfl

theorem commandWord_bit1 (r b : Bool) : (commandWord r b).getLsbD 1 = b := by
  cases r <;> cases b <;> rfl

@[simp] theorem busOfBit_bitOfBus (bus : BusType) : busOfBit (bitOfBus bus) = bus := by
  cases bus <;> rfl

@[simp] theorem bitOfBus_busOfBit (b : Bool) : bitOfBus (busOfBit b) = b := by
  cases b <;> rfl

/-- The mask of the opcode map keeps every bit but bit 1 (R59). -/
theorem masked_or_bit1 (w : Word) :
    (w &&& 0xFFFFFFFD) ||| (if w.getLsbD 1 then 2 else 0) = w := by
  have hall : (0xFFFFFFFD : Word) ||| BitVec.twoPow 32 1 = BitVec.allOnes 32 := by decide
  calc (w &&& 0xFFFFFFFD) ||| (if w.getLsbD 1 then 2 else 0)
      = (w &&& 0xFFFFFFFD) ||| (w &&& BitVec.twoPow 32 1) := by rw [BitVec.and_twoPow]; rfl
    _ = w := by rw [← BitVec.and_or_distrib_left, hall, BitVec.and_allOnes]

theorem commandWord_masked (r b : Bool) :
    commandWord r b &&& 0xFFFFFFFD = (if r then 1 else 0) := by
  cases r <;> cases b <;> rfl

/-- A row of the opcode map covers the two command words of its operation (R59). -/
theorem masked_eq_iff (w : Word) (r : Bool) :
    w &&& 0xFFFFFFFD = (if r then 1 else 0) ↔ w = commandWord r (w.getLsbD 1) := by
  constructor
  · intro h
    exact (masked_or_bit1 w).symm.trans (congrArg (· ||| (if w.getLsbD 1 then 2 else 0)) h)
  · intro h
    rw [h]
    exact commandWord_masked r _

/-! ### The decoder and the encoder are inverse to each other -/

theorem decode_of_computeCtrl {q : Request} (h : q.CMD.extractLsb 31 2 = 0)
    (h0 : q.CMD.getLsbD 0 = false) :
    decode q = .ok (.computeCtrl (busOfBit (q.CMD.getLsbD 1)) q.CLK q.F3 q.F2 q.DUTY) := by
  simp only [decode, h, h0, ne_eq, not_true_eq_false, if_true, if_false]

theorem decode_of_computeTgt {q : Request} (h : q.CMD.extractLsb 31 2 = 0)
    (h0 : q.CMD.getLsbD 0 = true) :
    decode q = .ok (.computeTgt (q.CMD.getLsbD 1) q.CLK q.F3 q.F2 q.DUTY) := by
  simp only [decode, h, h0, ne_eq, not_true_eq_false, Bool.true_eq_false, if_false]

theorem decode_encode (i : Instr) : decode (encode i) = .ok i := by
  cases i with
  | computeCtrl bus clk f3 f2 duty =>
    have h := decode_of_computeCtrl (q := encode (.computeCtrl bus clk f3 f2 duty))
      (commandWord_reservedBits false (bitOfBus bus)) (commandWord_bit0 false (bitOfBus bus))
    rwa [encode, commandWord_bit1, busOfBit_bitOfBus] at h
  | computeTgt b clk f3 f2 duty =>
    have h := decode_of_computeTgt (q := encode (.computeTgt b clk f3 f2 duty))
      (commandWord_reservedBits true b) (commandWord_bit0 true b)
    rwa [encode, commandWord_bit1] at h

/-- A request without a reserved bit is the encoding of some instruction. -/
theorem exists_encode_eq {q : Request} (h : q.CMD.extractLsb 31 2 = 0) : ∃ i, encode i = q := by
  obtain ⟨cmd, clk, f3, f2, duty⟩ := q
  have hcmd := eq_commandWord_of_reservedBits h
  cases h0 : cmd.getLsbD 0 with
  | false =>
    refine ⟨.computeCtrl (busOfBit (cmd.getLsbD 1)) clk f3 f2 duty, ?_⟩
    simp only [encode, bitOfBus_busOfBit, Request.mk.injEq, and_true]
    simpa only [h0] using hcmd.symm
  | true =>
    refine ⟨.computeTgt (cmd.getLsbD 1) clk f3 f2 duty, ?_⟩
    simp only [encode, Request.mk.injEq, and_true]
    simpa only [h0] using hcmd.symm

/-- A request decodes to an instruction exactly when it is that instruction's encoding. -/
theorem decode_eq_ok {q : Request} {i : Instr} : decode q = .ok i ↔ encode i = q := by
  constructor
  · intro hd
    have hr : q.CMD.extractLsb 31 2 = 0 := by
      by_contra hne
      exact nomatch hd.symm.trans (decode_error.mpr ⟨hne, rfl⟩)
    obtain ⟨j, rfl⟩ := exists_encode_eq hr
    rw [Except.ok.inj (hd.symm.trans (decode_encode j))]
  · rintro rfl
    exact decode_encode i

/-- Settles O12: the command word written for an operation has that operation's two bits and no reserved
one. -/
theorem decodeEncodeReturnsInstruction : Obligations.DecodeEncodeReturnsInstruction :=
  fun i _ => decode_encode i

/-- Settles O13: a request that decodes has no reserved bit, so it is some encoding, and decoding that gives
the instruction back. -/
theorem encodeDecodeReturnsRequest : Obligations.EncodeDecodeReturnsRequest :=
  fun _ _ => decode_eq_ok.mp

/-! ### What selects the operation -/

theorem decode_eq_computeCtrl {q : Request} (bus : BusType) :
    decode q = .ok (.computeCtrl bus q.CLK q.F3 q.F2 q.DUTY) ↔ q.CMD = commandWord false (bitOfBus bus) := by
  rw [decode_eq_ok]
  exact ⟨fun h => congrArg Request.CMD h.symm, fun h => by rw [encode, ← h]⟩

theorem decode_eq_computeTgt {q : Request} (b : Bool) :
    decode q = .ok (.computeTgt b q.CLK q.F3 q.F2 q.DUTY) ↔ q.CMD = commandWord true b := by
  rw [decode_eq_ok]
  exact ⟨fun h => congrArg Request.CMD h.symm, fun h => by rw [encode, ← h]⟩

/-- Settles O14: the words 0 to 3 are the four command words, and any other has a reserved bit. -/
theorem decodeFollowsCommandWord : Obligations.DecodeFollowsCommandWord := by
  intro q
  refine ⟨(decode_eq_computeCtrl .pureI3C).mpr, (decode_eq_computeCtrl .mixed).mpr,
    (decode_eq_computeTgt false).mpr, (decode_eq_computeTgt true).mpr, ?_⟩
  intro h0 h1 h2 h3
  refine decode_error.mpr ⟨fun h => ?_, rfl⟩
  rcases reservedBits_eq_zero_cases.mp h with h | h | h | h
  · exact h0 h
  · exact h1 h
  · exact h2 h
  · exact h3 h

/-- Settles O15: a masked word is a row's match exactly when it is a command word of the row's operation. -/
theorem opcodeRowsSelectOperation : Obligations.OpcodeRowsSelectOperation := by
  intro q
  constructor
  · have hctrl := decode_eq_computeCtrl (q := q) (busOfBit (q.CMD.getLsbD 1))
    rw [bitOfBus_busOfBit] at hctrl
    exact (masked_eq_iff q.CMD false).trans hctrl.symm
  · exact (masked_eq_iff q.CMD true).trans (decode_eq_computeTgt _).symm

/-- Settles O16: each request is the encoding of its instruction. -/
theorem writtenWordsDecode : Obligations.WrittenWordsDecode :=
  ⟨decode_eq_ok.mpr rfl, decode_eq_ok.mpr rfl, decode_eq_ok.mpr rfl⟩

/-! ### Assembler lines -/

theorem encode_instr (a : AsmLine) : encode a.instr = assemble a := by
  cases a <;> rfl

theorem decode_assemble (a : AsmLine) : decode (assemble a) = .ok a.instr :=
  decode_eq_ok.mpr (encode_instr a)

/-- Settles O18: a line assembles to the encoding of its instruction. -/
theorem assemblerLinesDecode : Obligations.AssemblerLinesDecode :=
  fun _ _ _ _ => ⟨decode_assemble _, decode_assemble _, decode_assemble _⟩

/-- On a Pure-I3C bus no check and no count reads the I2C frequency (R96). -/
theorem ctrlResult_pure_f2 (prm : Params) (clk f3 f2 f2' duty : Word) :
    ctrlResult prm .pureI3C clk f3 f2 duty = ctrlResult prm .pureI3C clk f3 f2' duty := rfl

theorem exec_pure_f2 (clk f3 f2 f2' duty : Word) (s : State) :
    exec (.computeCtrl .pureI3C clk f3 f2 duty) s = exec (.computeCtrl .pureI3C clk f3 f2' duty) s := by
  simp only [exec, execComputeCtrl, ctrlResult_pure_f2 s.params clk f3 f2 f2' duty]

/-- Settles O19: the two lines decode to instructions that differ in the I2C frequency alone. -/
theorem shortPureLineIsExact : Obligations.ShortPureLineIsExact := by
  intro s host clk f3 f2 duty
  refine ⟨rfl, ?_⟩
  simp only [serveRequest, decode_assemble, AsmLine.instr, exec_pure_f2 clk f3 0 f2 duty s]

/-! ### A step whose first event is a request -/

theorem step_of_request {s : State} {host : Nat} {q : Request} {rest : List Event}
    (he : s.events = .request host q :: rest) : step s = serveRequest host q (s.withEvents rest) := by
  simp [step, he, serveEvent]

theorem State.deliver_of_response {s : State} {r : Response} (h : s.response = some r) (host : Nat) :
    s.deliver host = { s with delivered := s.delivered ++ [⟨host, r⟩] } := by
  simp [State.deliver, h]

/-- Settles O6: the request is served by executing its instruction, whose response is then delivered. -/
theorem stepRunsDecodedInstruction : Obligations.StepRunsDecodedInstruction := by
  intro s host q rest i he _ hd
  obtain ⟨t, hx, hr⟩ := exec_response i (s.withEvents rest)
  refine ⟨t, _, hx, hr, ?_⟩
  rw [step_of_request he, serveRequest, hd, ← State.deliver_of_response hr host]
  exact congrArg (deliverOutcome host) hx

/-- A set bit of [31:2] is a set reserved bit. -/
theorem reservedBits_ne_zero {w : Word} {n : Nat} (h2 : 2 ≤ n) (h31 : n ≤ 31) (hn : w.getLsbD n = true) :
    w.extractLsb 31 2 ≠ 0 := by
  intro h
  have hbit : (w.extractLsb 31 2).getLsbD (n - 2) = w.getLsbD n := by
    rw [BitVec.getLsbD_extractLsb, Nat.add_sub_cancel' h2]
    simp [show n - 2 < 30 by omega]
  rw [h, hn] at hbit
  simp at hbit

/-- Settles O17: the decoder refuses such a word before anything runs. -/
theorem reservedBitsAreRefused : Obligations.ReservedBitsAreRefused := by
  rintro s host q rest he ⟨n, h2, h31, hn⟩
  rw [step_of_request he]
  exact serveRequest_of_decode_error (decode_error.mpr ⟨reservedBits_ne_zero h2 h31 hn, rfl⟩) host _

end Sys2Proof.Machine
end

section
/-! PROOFS. The packed views: a TIMING word is read byte by byte, and a byte shifted to one position leaves
every other position 0 (R57, R58). -/

namespace Sys2Proof.Machine

/-- Byte `k` of a word: the bits from 8k to 8k+7. -/
def byteAt (k : Nat) (w : Word) : Byte :=
  w.extractLsb' (8 * k) 8

theorem byteAt_bit (k : Nat) (w : Word) {n : Nat} (hn : n < 8) :
    (byteAt k w).getLsbD n = w.getLsbD (8 * k + n) := by
  simp [byteAt, hn]

theorem byteAt_or (k : Nat) (v w : Word) : byteAt k (v ||| w) = byteAt k v ||| byteAt k w :=
  BitVec.extractLsb'_or

/-- A byte moved to position `k` is there, and nowhere else. -/
theorem byteAt_shiftLeft (j : Nat) {k : Nat} (hk : k < 4) (b : Byte) :
    byteAt j (b.setWidth 32 <<< (8 * k)) = if j = k then b else 0 := by
  refine BitVec.eq_of_getLsbD_eq fun n hn => ?_
  rw [byteAt_bit _ _ hn, BitVec.getLsbD_shiftLeft, BitVec.getLsbD_setWidth]
  rcases Nat.lt_trichotomy j k with hlt | rfl | hgt
  · simp [show 8 * j + n < 8 * k by omega, hlt.ne]
  · simp [show 8 * j + n < 32 by omega, show n < 32 by omega]
  · simp [hgt.ne', BitVec.getLsbD_of_ge b (8 * j + n - 8 * k) (by omega)]

/-- The SDA-hold field of a record: the flag at its position and no other bit (R53). -/
def flagField (pos : Nat) (flag : Bool) : Word :=
  if flag then 1#32 <<< pos else 0#32

theorem flagField_bit (pos : Nat) (flag : Bool) {n : Nat} (hn : n < 32) :
    (flagField pos flag).getLsbD n = (flag && decide (n = pos)) := by
  cases flag with
  | false => simp [flagField]
  | true =>
    have hpow : flagField pos true = BitVec.twoPow 32 pos := rfl
    rw [hpow, BitVec.getLsbD_twoPow]
    by_cases h : n = pos
    · simp [← h, hn]
    · simp [h, Ne.symm h]

/-- A flag in [31:24] leaves the three bytes below 0. -/
theorem byteAt_flagField {pos : Nat} (hpos : 24 ≤ pos) (flag : Bool) {k : Nat} (hk : k < 3) :
    byteAt k (flagField pos flag) = 0 := by
  refine BitVec.eq_of_getLsbD_eq fun n hn => ?_
  rw [byteAt_bit _ _ hn, flagField_bit pos flag (by omega)]
  simp [show 8 * k + n ≠ pos by omega]

/-- The four fields of TIMING0 are its four bytes (R57). -/
theorem byteAt_timing0 (c : ControllerTimingConfig) (j : Nat) :
    byteAt j c.timing0 =
      (if j = 0 then c.SCLPPLowDuration else 0) ||| (if j = 1 then c.SCLI3CHighDuration else 0) |||
      (if j = 2 then c.SCLODLowDuration else 0) ||| (if j = 3 then c.SCLI2CHighDuration else 0) := by
  have h0 := byteAt_shiftLeft j (k := 0) (by decide) c.SCLPPLowDuration
  have h1 := byteAt_shiftLeft j (k := 1) (by decide) c.SCLI3CHighDuration
  have h2 := byteAt_shiftLeft j (k := 2) (by decide) c.SCLODLowDuration
  have h3 := byteAt_shiftLeft j (k := 3) (by decide) c.SCLI2CHighDuration
  simp only [Nat.mul_zero, BitVec.shiftLeft_zero] at h0
  simp only [ControllerTimingConfig.timing0, byteAt_or, h0, ← h1, ← h2, ← h3]

theorem byteAt_timing1 (c : ControllerTimingConfig) (j : Nat) :
    byteAt j c.timing1 =
      (if j = 0 then c.BusIdleDuration else 0) ||| (if j = 2 then c.BusFreeDuration else 0) |||
      byteAt j c.SDAHoldTime := by
  have h0 := byteAt_shiftLeft j (k := 0) (by decide) c.BusIdleDuration
  have h2 := byteAt_shiftLeft j (k := 2) (by decide) c.BusFreeDuration
  simp only [Nat.mul_zero, BitVec.shiftLeft_zero] at h0
  simp only [ControllerTimingConfig.timing1, byteAt_or, h0, ← h2]

/-- The top byte of TIMING1 is the SDA-hold field's: no count reaches it (R57). -/
theorem timing1_bit_of_ge (c : ControllerTimingConfig) {n : Nat} (hn : 24 ≤ n) :
    c.timing1.getLsbD n = c.SDAHoldTime.getLsbD n := by
  simp [ControllerTimingConfig.timing1, BitVec.getLsbD_of_ge c.BusIdleDuration n (by omega),
    BitVec.getLsbD_of_ge c.BusFreeDuration (n - 16) (by omega)]

/-- A target's byte is the whole of its word (R58). -/
theorem target_timing1_fields (c : TargetTimingConfig) :
    c.timing1.extractLsb 7 0 = c.BusAvailableDuration ∧ c.timing1.extractLsb 31 8 = 0 := by
  constructor <;> refine BitVec.eq_of_getLsbD_eq fun n hn => ?_
  · simp [TargetTimingConfig.timing1, hn]
  · simp [TargetTimingConfig.timing1]

/-- Settles O20: byte by byte, with the flag in the top byte of TIMING1. -/
theorem packedViewsHoldTheFields : Obligations.PackedViewsHoldTheFields := by
  refine ⟨?_, target_timing1_fields⟩
  intro c pos flag hpos hflag
  replace hflag : c.SDAHoldTime = flagField pos.val flag := hflag
  have hzero {k : Nat} (hk : k < 3) : byteAt k c.SDAHoldTime = 0 := by
    rw [hflag, byteAt_flagField hpos flag hk]
  refine ⟨(byteAt_timing0 c 0).trans (by simp), (byteAt_timing0 c 1).trans (by simp),
    (byteAt_timing0 c 2).trans (by simp), (byteAt_timing0 c 3).trans (by simp),
    (byteAt_timing1 c 0).trans (by simp [hzero]), (byteAt_timing1 c 1).trans (by simp [hzero]),
    (byteAt_timing1 c 2).trans (by simp [hzero]), ?_⟩
  intro n h24 h32
  rw [timing1_bit_of_ge c h24, hflag, flagField_bit pos.val flag h32]

end Sys2Proof.Machine
end

section
/-! PROOFS. Rounding over the rationals, and the period converter: a rounded quotient of a non-negative dividend
does not increase with the divisor, which gives the converter's bounds from its two extreme frequencies. -/

namespace Sys2Proof.Machine

/-! ### Rounding -/

/-- The relation of the claims is the floor of R63, multiplied by twice the divisor. -/
theorem RoundsTo.eq_floor {a d q : Int} (hd : 0 < d) (h : RoundsTo a d q) :
    ⌊(a : ℚ) / (d : ℚ) + 1 / 2⌋ = q := by
  obtain ⟨hlow, hhigh⟩ := h
  have hd' : (0 : ℚ) < d := by exact_mod_cast hd
  have hden : (0 : ℚ) < 2 * d := by linarith
  have hquot : (a : ℚ) / d + 1 / 2 = (2 * a + d) / (2 * d) := by field_simp
  rw [Int.floor_eq_iff, hquot, le_div_iff₀ hden, div_lt_iff₀ hden, mul_comm (q : ℚ),
    mul_comm ((q : ℚ) + 1)]
  exact ⟨by exact_mod_cast hlow, by exact_mod_cast hhigh⟩

/-- A tie would equate the even `2 * a` with a product of odd numbers. -/
theorem not_tie_of_odd {d : Int} (hd : Odd d) (a k : Int) : 2 * a ≠ (2 * k + 1) * d := by
  intro htie
  have hodd : Odd ((2 * k + 1) * d) := (odd_two_mul_add_one k).mul hd
  exact Int.not_odd_iff_even.mpr (even_two_mul a) (htie ▸ hodd)

/-- A larger divisor does not give a larger quotient: if it did, `(2 * q - 1) * e ≤ 2 * a` for the quotient `q`
by `e` would exceed `2 * a < (2 * p + 1) * d` for the quotient `p` by `d`. -/
theorem divRound_le_of_divisor_le {a d e : Int} (ha : 0 ≤ a) (hd : 0 < d) (hde : d ≤ e) :
    divRound a e ≤ divRound a d := by
  obtain ⟨-, hp⟩ := divRound_roundsTo a hd
  obtain ⟨hq, -⟩ := divRound_roundsTo a (hd.trans_le hde)
  generalize divRound a d = p at hp ⊢
  generalize divRound a e = q at hq ⊢
  have hp' : 2 * a < (2 * p + 1) * d := by linarith
  have hq' : (2 * q - 1) * e ≤ 2 * a := by linarith
  have hpos : 0 < 2 * p + 1 := pos_of_mul_pos_left (by omega : 0 < (2 * p + 1) * d) hd.le
  by_contra! hlt
  have hmul : (2 * p + 1) * d ≤ (2 * q - 1) * e :=
    mul_le_mul (by omega) hde hd.le (by omega)
  omega

/-- Settles O21: `divRound` meets the rounding relation, and the relation is the floor. -/
theorem divRoundIsRationalRounding : Obligations.DivRoundIsRationalRounding := by
  intro a d hd
  exact ⟨((divRound_roundsTo a hd).eq_floor hd).symm,
    fun hodd k => not_tie_of_odd (Int.odd_iff.mpr hodd) a k⟩

/-! ### The period converter -/

theorem period10ps_roundsTo {f : Word} (hf : f ≠ 0) :
    RoundsTo 100000000000 f.toNat (period10ps f) := by
  rw [period10ps_of_ne hf]
  exact divRound_roundsTo 100000000000 (operand_pos hf)

/-- The period is between those of the frequencies 2^32 and 1, in 10 ps units (R67). -/
theorem period10ps_bounds {f : Word} (hf : f ≠ 0) : 23 ≤ period10ps f ∧ period10ps f ≤ 100000000000 := by
  have hpos := operand_pos hf
  obtain ⟨-, hlt⟩ := operand_bounds f
  rw [period10ps_of_ne hf]
  constructor
  · calc (23 : Int) = divRound 100000000000 4294967296 := by decide
      _ ≤ divRound 100000000000 (operand f) := divRound_le_of_divisor_le (by decide) hpos hlt.le
  · calc divRound 100000000000 (operand f) ≤ divRound 100000000000 1 :=
        divRound_le_of_divisor_le (by decide) (by decide) hpos
      _ = 100000000000 := by decide

/-- Settles O22, with the bounds read off at the extreme frequencies. -/
theorem periodOfFrequency : Obligations.PeriodOfFrequency :=
  ⟨period10ps_zero, fun _ hf => ⟨period10ps_roundsTo hf, period10ps_bounds hf⟩⟩

/-- Settles O23: the frequency is the divisor of the converter. -/
theorem periodNonIncreasing : Obligations.PeriodNonIncreasing := by
  intro f g hf hfg
  have hfpos := operand_pos hf
  have hle : operand f ≤ operand g := Int.ofNat_le.mpr hfg
  have hg : g ≠ 0 := by
    rintro rfl
    exact absurd (hfpos.trans_le hle) (by decide)
  rw [period10ps_of_ne hf, period10ps_of_ne hg]
  exact divRound_le_of_divisor_le (by decide) hfpos hle

end Sys2Proof.Machine
end

section
/-! PROOFS. COMPUTE_CTRL: the relations of the rules have exactly one solution, the counts the machine computes, and
the machine answers that solution's record exactly when the checks of R71 to R73 pass and its counts fit. -/

namespace Sys2Proof.Machine

/-! ### The rounding relation with an offset, and bounds on a quotient -/

theorem roundsTo_add_iff {a d q k : Int} (hd : 0 < d) : RoundsTo a d (q + k) ↔ q = divRound a d - k := by
  rw [roundsTo_iff hd]
  omega

theorem roundsTo_sub_iff {a d q k : Int} (hd : 0 < d) : RoundsTo a d (q - k) ↔ q = divRound a d + k := by
  rw [roundsTo_iff hd]
  omega

/-- A rounded quotient is below `m` exactly when the quotient is below `m - 1/2`. -/
theorem divRound_lt_iff {a d m : Int} (hd : 0 < d) : divRound a d < m ↔ 2 * a + d < 2 * d * m := by
  obtain ⟨hlow, hhigh⟩ := divRound_roundsTo a hd
  have h2d : 0 < 2 * d := by omega
  constructor
  · intro h
    exact hhigh.trans_le (mul_le_mul_of_nonneg_left h h2d.le)
  · intro h
    exact lt_of_mul_lt_mul_left (hlow.trans_lt h) h2d.le

theorem period10ps_pos {f : Word} (hf : f ≠ 0) : 0 < period10ps f := by
  have := (period10ps_bounds hf).1
  omega

/-- The converter is the one solution of R64's relation. -/
theorem roundsTo_period_iff {f : Word} (hf : f ≠ 0) {q : Int} :
    RoundsTo 100000000000 f.toNat q ↔ q = period10ps f := by
  rw [period10ps_of_ne hf]
  exact roundsTo_iff (operand_pos hf)

/-! ### Each rule's clauses determine the machine's value -/

/-- A rule's two clauses, by the case of its comparison, are one conditional. -/
theorem eq_ite_lt_iff {x y v a b : Int} :
    (x < y → v = a) ∧ (y ≤ x → v = b) ↔ v = if x < y then a else b := by
  split <;> omega

/-- R76 to R78: the high count and the low count before correction. -/
theorem pureHighLow_iff {P Tpp d H L₀ : Int} (hP : 0 < P) :
    ((pureHighFromDuty P Tpp d + 1) * P < 3200 →
      RoundsTo 3200 P (H + 1) ∧ RoundsTo (Tpp - (H + 1) * P) P (L₀ + 1)) ∧
    (3200 ≤ (pureHighFromDuty P Tpp d + 1) * P →
      H = pureHighFromDuty P Tpp d ∧ RoundsTo (Tpp - pureIdealHigh Tpp d) P (L₀ + 1)) ↔
    H = pureHigh P Tpp d ∧ L₀ = pureLow P Tpp d := by
  simp only [roundsTo_add_iff hP]
  by_cases h : (pureHighFromDuty P Tpp d + 1) * P < 3200
  · have hmin : pureMinPath P Tpp d = true := decide_eq_true h
    have hH : pureHigh P Tpp d = divRound 3200 P - 1 := if_pos hmin
    have hL : pureLow P Tpp d = divRound (Tpp - (pureHigh P Tpp d + 1) * P) P - 1 := if_pos hmin
    simp only [hL, hH, h, not_le.mpr h, forall_const, false_imp_iff, and_true]
    exact and_congr_right fun hH' => by rw [hH']
  · have hmin : ¬ pureMinPath P Tpp d = true := by simpa [pureMinPath] using h
    have hH : pureHigh P Tpp d = pureHighFromDuty P Tpp d := if_neg hmin
    have hL : pureLow P Tpp d = divRound (Tpp - pureIdealHigh Tpp d) P - 1 := if_neg hmin
    simp only [hL, hH, h, not_lt.mp h, forall_const, false_imp_iff, true_and]

/-- R79: the high count from the open-drain ceiling, with its clamps. -/
theorem mixedHigh_iff {P H : Int} :
    ((mixedHighStart P + 1) * P < 3200 → H = mixedHighStart P + 1) ∧
    (4100 < (mixedHighStart P + 1) * P → H = mixedHighStart P - 1) ∧
    (3200 ≤ (mixedHighStart P + 1) * P → (mixedHighStart P + 1) * P ≤ 4100 → H = mixedHighStart P) ↔
    H = mixedHigh P := by
  simp only [mixedHigh, realised, TI3CH_MIN, TI3CH_OD_MAX]
  split
  · omega
  · split <;> omega

/-- R81, R82: halves of `P` are exact in the relation and rounded down in the machine, which is the same test on
integers. -/
theorem correctsTo_iff {P Tpp H L₀ L : Int} : CorrectsTo P Tpp H L₀ L ↔ L = correctLow P Tpp H L₀ := by
  have hover {L₁ : Int} :
      (P < 2 * ((L₀ + H + 2) * P - Tpp) → L₁ = L₀ - 1) ∧ (2 * ((L₀ + H + 2) * P - Tpp) ≤ P → L₁ = L₀) ↔
      L₁ = correctOvershoot P Tpp H L₀ := by
    simp only [correctOvershoot, realisedPeriod]
    split <;> omega
  have hunder {L₁ : Int} :
      (P < 2 * (Tpp - (L₁ + H + 2) * P) → L = L₁ + 1) ∧ (2 * (Tpp - (L₁ + H + 2) * P) ≤ P → L = L₁) ↔
      L = correctUndershoot P Tpp H L₁ := by
    simp only [correctUndershoot, realisedPeriod]
    split <;> omega
  calc CorrectsTo P Tpp H L₀ L
      ↔ ∃ L₁, L₁ = correctOvershoot P Tpp H L₀ ∧ L = correctUndershoot P Tpp H L₁ := by
        simp only [CorrectsTo, ← hover, ← hunder, and_assoc]
    _ ↔ L = correctLow P Tpp H L₀ := exists_eq_left

/-- R83: the open-drain low count on a Pure-I3C bus before its floor. -/
theorem odLowPureBase_iff {P Tpp L o : Int} (hP : 0 < P) :
    (Tpp < 20000 → RoundsTo 20000 P (o + 1)) ∧ (20000 ≤ Tpp → o = L) ↔ o = odLowPureBase P Tpp L := by
  rw [roundsTo_add_iff hP]
  exact eq_ite_lt_iff

/-- R84: the capacitive-settling floor. -/
theorem odLowPure_iff {P Tpp L o : Int} (hP : 0 < P) :
    ((odLowPureBase P Tpp L + 1) * P < 35000 → RoundsTo 35000 P (o - 1)) ∧
    (35000 ≤ (odLowPureBase P Tpp L + 1) * P → o = odLowPureBase P Tpp L) ↔ o = odLowPure P Tpp L := by
  rw [roundsTo_sub_iff hP]
  exact eq_ite_lt_iff

/-- R86: the floor the I2C period selects. -/
theorem odFloor_iff {prm : Params} {Tod fl : Int} :
    (Tod < prm.TFM_MIN → fl = 50000) ∧ (prm.TFM_MIN ≤ Tod → fl = 130000) ↔ fl = odFloor prm Tod :=
  eq_ite_lt_iff

/-- R86: the open-drain low count on a Mixed bus with that floor. -/
theorem odLowMixed_iff {prm : Params} {P Tod d o : Int} (hP : 0 < P) :
    ((odLowMixedSplit P Tod d + 1) * P < odFloor prm Tod → RoundsTo (odFloor prm Tod) P (o + 1)) ∧
    (odFloor prm Tod ≤ (odLowMixedSplit P Tod d + 1) * P → o = odLowMixedSplit P Tod d) ↔
    o = odLowMixed prm P Tod d := by
  rw [roundsTo_add_iff hP]
  exact eq_ite_lt_iff

/-! ### The counts of a request -/

/-- The counts the machine computes for the words of a request (R69). -/
def requestCounts (prm : Params) (bus : BusType) (clk f3 f2 duty : Word) : Counts :=
  ctrlCounts prm bus (period10ps clk) (period10ps f3) (period10ps f2) (operand duty)

/-- The Pure-I3C rules have one solution: `requestCounts`, with the clock's period. -/
theorem pureRules_iff {prm : Params} {clk f3 duty : Word} (f2 : Word) (hclk : clk ≠ 0) (hf3 : f3 ≠ 0)
    {P : Int} {c : Counts} :
    PureRules prm clk f3 duty P c ↔
      P = period10ps clk ∧ c = requestCounts prm .pureI3C clk f3 f2 duty := by
  have hP := period10ps_pos hclk
  have h100 : (0 : Int) < 100 := by decide
  constructor
  · rintro ⟨Tpp, tHi, H₀, L₀, ODL₀, hp, htpp, htHi, hH₀, hmin, hduty, hcorr, hbase, hbaseL, hfloor, hodl,
      hi2c, hfree, hidle⟩
    obtain rfl := (roundsTo_period_iff hclk).mp hp
    obtain rfl := (roundsTo_period_iff hf3).mp htpp
    obtain rfl : tHi = pureIdealHigh (period10ps f3) (operand duty) := (roundsTo_iff h100).mp htHi
    obtain rfl : H₀ = pureHighFromDuty (period10ps clk) (period10ps f3) (operand duty) :=
      (roundsTo_add_iff hP).mp hH₀
    obtain ⟨hH, rfl⟩ := (pureHighLow_iff hP).mp ⟨hmin, hduty⟩
    have hL := correctsTo_iff.mp hcorr
    obtain rfl := (odLowPureBase_iff hP).mp ⟨hbase, hbaseL⟩
    have hODL := (odLowPure_iff hP).mp ⟨hfloor, hodl⟩
    have hFREE := (roundsTo_sub_iff (by omega)).mp hfree
    have hIDLE := (roundsTo_add_iff hP).mp hidle
    obtain ⟨L, H, ODL, I2CH, FREE, IDLE⟩ := c
    dsimp only at *
    subst hH hL hODL hi2c hFREE hIDLE
    exact ⟨rfl, rfl⟩
  · rintro ⟨rfl, rfl⟩
    obtain ⟨hmin, hduty⟩ := (pureHighLow_iff hP).mpr ⟨rfl, rfl⟩
    obtain ⟨hbase, hbaseL⟩ := (odLowPureBase_iff hP).mpr rfl
    obtain ⟨hfloor, hodl⟩ := (odLowPure_iff hP).mpr rfl
    exact ⟨_, _, _, _, _, period10ps_roundsTo hclk, period10ps_roundsTo hf3, divRound_roundsTo _ h100,
      (roundsTo_add_iff hP).mpr rfl, hmin, hduty, correctsTo_iff.mpr rfl, hbase, hbaseL, hfloor, hodl, rfl,
      (roundsTo_sub_iff (by omega)).mpr rfl, (roundsTo_add_iff hP).mpr rfl⟩

/-- The Mixed rules have one solution: `requestCounts`, with the clock's period. -/
theorem mixedRules_iff {prm : Params} {clk f3 f2 duty : Word} (hclk : clk ≠ 0) (hf3 : f3 ≠ 0) (hf2 : f2 ≠ 0)
    {P : Int} {c : Counts} :
    MixedRules prm clk f3 f2 duty P c ↔
      P = period10ps clk ∧ c = requestCounts prm .mixed clk f3 f2 duty := by
  have hP := period10ps_pos hclk
  have h100 : (0 : Int) < 100 := by decide
  constructor
  · rintro ⟨Tpp, Tod, H₀, L₀, hiShare, ODL₀, floorOD, hp, htpp, htod, hH₀, hup, hdown, hkeep, hL₀, hcorr,
      hshare, hODL₀, hfast, hslow, hfloor, hodl, hi2c, hfree, hidle⟩
    obtain rfl := (roundsTo_period_iff hclk).mp hp
    obtain rfl := (roundsTo_period_iff hf3).mp htpp
    obtain rfl := (roundsTo_period_iff hf2).mp htod
    obtain rfl : H₀ = mixedHighStart (period10ps clk) := (roundsTo_add_iff hP).mp hH₀
    have hH := mixedHigh_iff.mp ⟨hup, hdown, hkeep⟩
    have hL₀ := (roundsTo_add_iff hP).mp hL₀
    have hL := correctsTo_iff.mp hcorr
    obtain rfl := (roundsTo_iff h100).mp hshare
    obtain rfl : ODL₀ = odLowMixedSplit (period10ps clk) (period10ps f2) (operand duty) :=
      (roundsTo_add_iff hP).mp hODL₀
    obtain rfl := odFloor_iff.mp ⟨hfast, hslow⟩
    have hODL := (odLowMixed_iff hP).mp ⟨hfloor, hodl⟩
    have hI2CH := (roundsTo_add_iff hP).mp hi2c
    have hFREE := (roundsTo_iff (by omega)).mp hfree
    have hIDLE := (roundsTo_add_iff hP).mp hidle
    obtain ⟨L, H, ODL, I2CH, FREE, IDLE⟩ := c
    dsimp only at *
    subst hH hL₀ hL hODL hI2CH hFREE hIDLE
    exact ⟨rfl, rfl⟩
  · rintro ⟨rfl, rfl⟩
    obtain ⟨hup, hdown, hkeep⟩ := mixedHigh_iff.mpr rfl
    obtain ⟨hfast, hslow⟩ := odFloor_iff.mpr rfl
    obtain ⟨hfloor, hodl⟩ := (odLowMixed_iff hP).mpr rfl
    exact ⟨_, _, _, _, _, _, _, period10ps_roundsTo hclk, period10ps_roundsTo hf3, period10ps_roundsTo hf2,
      (roundsTo_add_iff hP).mpr rfl, hup, hdown, hkeep, (roundsTo_add_iff hP).mpr rfl, correctsTo_iff.mpr rfl,
      divRound_roundsTo _ h100, (roundsTo_add_iff hP).mpr rfl, hfast, hslow, hfloor, hodl,
      (roundsTo_add_iff hP).mpr rfl, divRound_roundsTo _ (by omega), (roundsTo_add_iff hP).mpr rfl⟩

/-! ### When COMPUTE_CTRL answers a record, and which -/

/-- The operands pass the checks of R71 to R73. -/
structure CtrlValid (bus : BusType) (clk f3 f2 duty : Word) : Prop where
  clk_ne : clk ≠ 0
  f3_ne : f3 ≠ 0
  duty_le : duty.toNat ≤ 50
  f2_ne : bus = .mixed → f2 ≠ 0
  tod_le : bus = .mixed → period10ps f2 ≤ 1000000

theorem validateFrequencies_ok {bus : BusType} {clk f3 f2 : Word} :
    validateFrequencies bus clk f3 f2 = .ok () ↔ clk ≠ 0 ∧ f3 ≠ 0 ∧ (bus = .mixed → f2 ≠ 0) := by
  cases bus <;> simp [validateFrequencies]

theorem validateDutyAndPeriod_ok {duty : Word} {p : Int} :
    validateDutyAndPeriod duty p = .ok () ↔ duty.toNat ≤ 50 ∧ p ≠ 0 := by
  simp [validateDutyAndPeriod, operand]

theorem validateI2cPeriod_ok {bus : BusType} {tod : Int} :
    validateI2cPeriod bus tod = .ok () ↔ (bus = .mixed → tod ≤ 1000000) := by
  cases bus <;> simp [validateI2cPeriod]

/-- The three checks pass exactly the valid operands; a non-zero clock has a non-zero period (R66). -/
theorem ctrlValid_iff {bus : BusType} {clk f3 f2 duty : Word} :
    CtrlValid bus clk f3 f2 duty ↔
      validateFrequencies bus clk f3 f2 = .ok () ∧ validateDutyAndPeriod duty (period10ps clk) = .ok () ∧
      validateI2cPeriod bus (period10ps f2) = .ok () := by
  rw [validateFrequencies_ok, validateDutyAndPeriod_ok, validateI2cPeriod_ok]
  constructor
  · rintro ⟨hclk, hf3, hduty, hf2, htod⟩
    exact ⟨⟨hclk, hf3, hf2⟩, ⟨hduty, (period10ps_pos hclk).ne'⟩, htod⟩
  · rintro ⟨⟨hclk, hf3, hf2⟩, ⟨hduty, -⟩, htod⟩
    exact ⟨hclk, hf3, hduty, hf2, htod⟩

theorem rangeGate_gated {c : Counts} : rangeGate c.gated = .ok () ↔ c.Fit := by
  simp [rangeGate_ok, Counts.gated]

/-- A count in range is its field's own binary value (R52). -/
theorem countField_of_fit {v : Int} (h : 0 ≤ v ∧ v ≤ 255) : countField v = BitVec.ofNat 8 v.toNat := by
  obtain ⟨n, rfl⟩ := Int.eq_ofNat_of_zero_le h.1
  simp [countField]

theorem toNat_ofNat_of_fit {v : Int} (h : 0 ≤ v ∧ v ≤ 255) : ((BitVec.ofNat 8 v.toNat).toNat : Int) = v := by
  rw [BitVec.toNat_ofNat]
  omega

/-- The machine's SDA-hold field is the one the claims write (R53, R89). -/
theorem sdaHoldField_sdaHold (prm : Params) (P : Int) :
    sdaHoldField prm (sdaHold P) = if P ≤ 600 then 1#32 <<< prm.SDA_HOLD_BIT_POS.val else 0#32 := by
  by_cases h : P ≤ 600
  · simp [sdaHoldField, sdaHold, h]
  · simp [sdaHoldField, sdaHold, h, not_le.mp h]

theorem Counts.record_eq_written {c : Counts} (hfit : c.Fit) (prm : Params) (P : Int) :
    c.record prm P = c.written prm P := by
  obtain ⟨hL, hH, hODL, hI2CH, hFREE, hIDLE⟩ := hfit
  simp only [Counts.record, Counts.written, countField_of_fit hL, countField_of_fit hH, countField_of_fit hODL,
    countField_of_fit hI2CH, countField_of_fit hFREE, countField_of_fit hIDLE, sdaHoldField_sdaHold]

theorem ctrlResult_eq_ok_iff {prm : Params} {bus : BusType} {clk f3 f2 duty : Word}
    {r : ControllerTimingConfig} :
    ctrlResult prm bus clk f3 f2 duty = .ok r ↔
      CtrlValid bus clk f3 f2 duty ∧ (requestCounts prm bus clk f3 f2 duty).Fit ∧
      r = (requestCounts prm bus clk f3 f2 duty).written prm (period10ps clk) := by
  rw [ctrlResult_ok, ctrlValid_iff, and_assoc, and_assoc]
  refine and_congr_right fun _ => and_congr_right fun _ => and_congr_right fun _ => ?_
  rw [rangeGate_gated]
  exact and_congr_right fun hfit => by rw [Counts.record_eq_written hfit]; rfl

/-- Executing COMPUTE_CTRL writes its result's response and nothing else (R92, R106). -/
theorem exec_ctrl_cases (bus : BusType) (clk f3 f2 duty : Word) (s : State) :
    (∃ r, ctrlResult s.params bus clk f3 f2 duty = .ok r ∧
      exec (.computeCtrl bus clk f3 f2 duty) s =
        .next { s with status := some .ok, cfg := some (.controller r) }) ∨
    (∃ e, ctrlResult s.params bus clk f3 f2 duty = .error e ∧
      exec (.computeCtrl bus clk f3 f2 duty) s = .next { s with status := some .error, cfg := none }) := by
  simp only [exec, execComputeCtrl]
  cases ctrlResult s.params bus clk f3 f2 duty with
  | ok r => exact .inl ⟨r, rfl, rfl⟩
  | error e => exact .inr ⟨e, rfl, rfl⟩

theorem exec_ctrl_eq_ok_iff {bus : BusType} {clk f3 f2 duty : Word} {s : State}
    {r : ControllerTimingConfig} :
    exec (.computeCtrl bus clk f3 f2 duty) s =
      .next { s with status := some .ok, cfg := some (.controller r) } ↔
    ctrlResult s.params bus clk f3 f2 duty = .ok r := by
  rcases exec_ctrl_cases bus clk f3 f2 duty s with ⟨r', hr, hx⟩ | ⟨e, he, hx⟩
  · simp [hr, hx]
  · simp [he, hx]

theorem answersRecord_iff_exec {bus : BusType} {clk f3 f2 duty : Word} {s : State}
    {r : ControllerTimingConfig} :
    AnswersRecord (.computeCtrl bus clk f3 f2 duty) s r ↔
    exec (.computeCtrl bus clk f3 f2 duty) s =
      .next { s with status := some .ok, cfg := some (.controller r) } := by
  refine ⟨?_, fun h => ⟨_, h, rfl, rfl⟩⟩
  rintro ⟨t, ht, hs, hc⟩
  rcases exec_ctrl_cases bus clk f3 f2 duty s with ⟨r', -, hx⟩ | ⟨e, -, hx⟩
  · obtain rfl := Host.Outcome.next.inj (hx.symm.trans ht)
    obtain rfl : r' = r := by simpa using hc
    exact hx
  · obtain rfl := Host.Outcome.next.inj (hx.symm.trans ht)
    simp at hs

theorem answersRecord_iff {bus : BusType} {clk f3 f2 duty : Word} {s : State} {r : ControllerTimingConfig} :
    AnswersRecord (.computeCtrl bus clk f3 f2 duty) s r ↔
      CtrlValid bus clk f3 f2 duty ∧ (requestCounts s.params bus clk f3 f2 duty).Fit ∧
      r = (requestCounts s.params bus clk f3 f2 duty).written s.params (period10ps clk) := by
  rw [answersRecord_iff_exec, exec_ctrl_eq_ok_iff, ctrlResult_eq_ok_iff]

theorem answersError_iff {bus : BusType} {clk f3 f2 duty : Word} {s : State} :
    AnswersError (.computeCtrl bus clk f3 f2 duty) s ↔
      ¬ (CtrlValid bus clk f3 f2 duty ∧ (requestCounts s.params bus clk f3 f2 duty).Fit) := by
  rcases exec_ctrl_cases bus clk f3 f2 duty s with ⟨r, hr, hx⟩ | ⟨e, he, hx⟩
  · obtain ⟨hv, hfit, -⟩ := ctrlResult_eq_ok_iff.mp hr
    simp [AnswersError, hx, hv, hfit]
  · refine iff_of_true hx fun ⟨hv, hfit⟩ => ?_
    exact nomatch he.symm.trans (ctrlResult_eq_ok_iff.mpr ⟨hv, hfit, rfl⟩)

/-- Settles O24: the counts of the rules are those the machine computes, and they pass every check. -/
theorem pureCommitsRuleCounts : Obligations.PureCommitsRuleCounts := by
  intro s clk f3 f2 duty P c hclk hf3 hduty hrules hfit
  obtain ⟨rfl, rfl⟩ := (pureRules_iff f2 hclk hf3).mp hrules
  exact exec_ctrl_eq_ok_iff.mpr (ctrlResult_eq_ok_iff.mpr ⟨⟨hclk, hf3, hduty, nofun, nofun⟩, hfit, rfl⟩)

/-- Settles O25: as on a Pure-I3C bus, with the two checks of the I2C frequency. -/
theorem mixedCommitsRuleCounts : Obligations.MixedCommitsRuleCounts := by
  intro s clk f3 f2 duty P c hclk hf3 hf2 hduty htod hrules hfit
  obtain ⟨rfl, rfl⟩ := (mixedRules_iff hclk hf3 hf2).mp hrules
  have hvalid : CtrlValid .mixed clk f3 f2 duty :=
    ⟨hclk, hf3, hduty, fun _ => hf2, fun _ => htod _ (period10ps_roundsTo hf2)⟩
  exact exec_ctrl_eq_ok_iff.mpr (ctrlResult_eq_ok_iff.mpr ⟨hvalid, hfit, rfl⟩)

/-- Settles O27: an error is the negation of valid operands with fitting counts, and each disjunct denies one of
these. -/
theorem controllerErrorExactly : Obligations.ControllerErrorExactly := by
  intro s bus clk f3 f2 duty
  rw [answersError_iff]
  constructor
  · intro h
    by_contra hno
    simp only [not_or] at hno
    obtain ⟨hclk, hf3, hf2, hduty, htod, hpure, hmixed⟩ := hno
    have hf2_ne (hb : bus = .mixed) : f2 ≠ 0 := fun h0 => hf2 ⟨hb, h0⟩
    have htod_le (hb : bus = .mixed) : period10ps f2 ≤ 1000000 :=
      not_lt.mp fun hlt => htod ⟨hb, _, period10ps_roundsTo (hf2_ne hb), hlt⟩
    refine h ⟨⟨hclk, hf3, not_lt.mp hduty, hf2_ne, htod_le⟩, ?_⟩
    by_contra hunfit
    cases bus with
    | pureI3C => exact hpure ⟨rfl, _, _, (pureRules_iff f2 hclk hf3).mpr ⟨rfl, rfl⟩, hunfit⟩
    | mixed => exact hmixed ⟨rfl, _, _, (mixedRules_iff hclk hf3 (hf2_ne rfl)).mpr ⟨rfl, rfl⟩, hunfit⟩
  · rintro h ⟨hvalid, hfit⟩
    rcases h with hclk | hf3 | ⟨hb, hf2⟩ | hduty | ⟨hb, Tod, hTod, hlt⟩ | ⟨rfl, P, c, hrules, hunfit⟩ |
      ⟨rfl, P, c, hrules, hunfit⟩
    · exact hvalid.clk_ne hclk
    · exact hvalid.f3_ne hf3
    · exact hvalid.f2_ne hb hf2
    · exact hduty.not_ge hvalid.duty_le
    · obtain rfl := (roundsTo_period_iff (hvalid.f2_ne hb)).mp hTod
      exact hlt.not_ge (hvalid.tod_le hb)
    · obtain ⟨-, rfl⟩ := (pureRules_iff f2 hvalid.clk_ne hvalid.f3_ne).mp hrules
      exact hunfit hfit
    · obtain ⟨-, rfl⟩ := (mixedRules_iff hvalid.clk_ne hvalid.f3_ne (hvalid.f2_ne rfl)).mp hrules
      exact hunfit hfit

/-- Settles O28: no check and no count on a Pure-I3C bus reads it. -/
theorem pureIgnoresI2cFrequency : Obligations.PureIgnoresI2cFrequency :=
  fun s clk f3 f2 f2' duty => exec_pure_f2 clk f3 f2 f2' duty s

end Sys2Proof.Machine
end

section
/-! PROOFS. The fields of an OK response: each is the integer count behind it, so that the statements about realised
periods, thresholds of the clock and single scenarios are arithmetic on the counts. -/

namespace Sys2Proof.Machine

/-! ### A written field is its count -/

section
variable {c : Counts} (hfit : c.Fit) (prm : Params) (P : Int)
include hfit

theorem Counts.written_L : ((c.written prm P).SCLPPLowDuration.toNat : Int) = c.L := by
  obtain ⟨hL, -⟩ := hfit
  exact toNat_ofNat_of_fit hL

theorem Counts.written_H : ((c.written prm P).SCLI3CHighDuration.toNat : Int) = c.H := by
  obtain ⟨-, hH, -⟩ := hfit
  exact toNat_ofNat_of_fit hH

theorem Counts.written_ODL : ((c.written prm P).SCLODLowDuration.toNat : Int) = c.ODL := by
  obtain ⟨-, -, hODL, -⟩ := hfit
  exact toNat_ofNat_of_fit hODL

theorem Counts.written_I2CH : ((c.written prm P).SCLI2CHighDuration.toNat : Int) = c.I2CH := by
  obtain ⟨-, -, -, hI2CH, -⟩ := hfit
  exact toNat_ofNat_of_fit hI2CH

theorem Counts.written_FREE : ((c.written prm P).BusFreeDuration.toNat : Int) = c.FREE := by
  obtain ⟨-, -, -, -, hFREE, -⟩ := hfit
  exact toNat_ofNat_of_fit hFREE

theorem Counts.written_IDLE : ((c.written prm P).BusIdleDuration.toNat : Int) = c.IDLE := by
  obtain ⟨-, -, -, -, -, hIDLE⟩ := hfit
  exact toNat_ofNat_of_fit hIDLE

end

/-- Settles O26: the record is that of the rules' counts, each written as its own value. -/
theorem secondaryFieldsFollowRules : Obligations.SecondaryFieldsFollowRules := by
  intro s bus clk f3 f2 duty c P hans hp
  obtain ⟨hvalid, hfit, rfl⟩ := answersRecord_iff.mp hans
  obtain rfl := (roundsTo_period_iff hvalid.clk_ne).mp hp
  have hP := period10ps_pos hvalid.clk_ne
  have h2P : 0 < 2 * period10ps clk := by omega
  simp only [Counts.written_ODL hfit, Counts.written_I2CH hfit, Counts.written_FREE hfit,
    Counts.written_IDLE hfit]
  refine ⟨?_, ?_, fun h => if_neg h.not_ge, fun h => if_pos h, (roundsTo_add_iff hP).mpr rfl⟩
  · rintro rfl
    exact ⟨rfl, (roundsTo_sub_iff h2P).mpr rfl⟩
  · rintro rfl
    refine ⟨fun Tod hTod => ?_, (roundsTo_iff h2P).mpr rfl⟩
    obtain rfl := (roundsTo_period_iff (hvalid.f2_ne rfl)).mp hTod
    exact (roundsTo_add_iff hP).mpr rfl

/-! ### The realised push-pull period -/

theorem realisedPeriod_succ (p l h : Int) : realisedPeriod p (l + 1) h = realisedPeriod p l h + p := by
  simp only [realisedPeriod]
  ring

theorem realisedPeriod_pred (p l h : Int) : realisedPeriod p (l - 1) h = realisedPeriod p l h - p := by
  simp only [realisedPeriod]
  ring

/-- A period that is too long by more than half a reference period is, one reference period shorter, too short by
at most half of one. -/
theorem correctUndershoot_of_overshoot {p tpp h l : Int}
    (hover : realisedPeriod p l h - tpp > p / 2) : correctUndershoot p tpp h (l - 1) = l - 1 := by
  have hpred := realisedPeriod_pred p l h
  exact if_neg (by omega)

/-- Settles O29: the overshoot check fires on an overshoot only, and what it leaves is no undershoot. -/
theorem correctionChecksNeverBothFire : Obligations.CorrectionChecksNeverBothFire := by
  intro P Tpp H L _ hfires
  have hover : realisedPeriod P L H - Tpp > P / 2 := by
    by_contra h
    exact hfires (if_neg h)
  have hdec : correctOvershoot P Tpp H L = L - 1 := if_pos hover
  rw [hdec]
  exact correctUndershoot_of_overshoot hover

/-- From an error of at most one reference period the corrections leave at most half of one (R94). -/
theorem correctLow_error {p tpp h l : Int} (herr : |realisedPeriod p l h - tpp| ≤ p) :
    |realisedPeriod p (correctLow p tpp h l) h - tpp| ≤ p / 2 := by
  rw [abs_le] at herr ⊢
  by_cases hover : realisedPeriod p l h - tpp > p / 2
  · have hdec : correctOvershoot p tpp h l = l - 1 := if_pos hover
    rw [correctLow, hdec, correctUndershoot_of_overshoot hover, realisedPeriod_pred]
    omega
  · have hkeep : correctOvershoot p tpp h l = l := if_neg hover
    rw [correctLow, hkeep]
    by_cases hunder : tpp - realisedPeriod p l h > p / 2
    · have hinc : correctUndershoot p tpp h l = l + 1 := if_pos hunder
      rw [hinc, realisedPeriod_succ]
      omega
    · have hsame : correctUndershoot p tpp h l = l := if_neg hunder
      rw [hsame]
      omega

/-- A low count that is the rounded remainder after the high phase has one rounding's error. -/
theorem remainderLow_error {p : Int} (hp : 0 < p) (tpp h : Int) :
    |realisedPeriod p (divRound (tpp - realised p h) p - 1) h - tpp| ≤ p / 2 := by
  have herr := divRound_error (tpp - realised p h) hp
  have hsplit : realisedPeriod p (divRound (tpp - realised p h) p - 1) h =
      divRound (tpp - realised p h) p * p + realised p h := by
    simp only [realisedPeriod, realised]
    ring
  rw [abs_le]
  omega

/-- Two shares of a period, rounded separately, have the error of both roundings. -/
theorem splitLow_error {p : Int} (hp : 0 < p) (tpp hi : Int) :
    |realisedPeriod p (divRound (tpp - hi) p - 1) (divRound hi p - 1) - tpp| ≤ p := by
  have hlow := divRound_error (tpp - hi) hp
  have hhigh := divRound_error hi hp
  have hsplit : realisedPeriod p (divRound (tpp - hi) p - 1) (divRound hi p - 1) =
      divRound (tpp - hi) p * p + divRound hi p * p := by
    simp only [realisedPeriod]
    ring
  rw [abs_le]
  omega

/-- Before the correction the error is at most one reference period: one rounding where the low count is a
remainder, two where it is a share of the duty split (R76 to R80). -/
theorem sclLow_error (bus : BusType) {p : Int} (hp : 0 < p) (tpp d : Int) :
    |realisedPeriod p (sclLow bus p tpp d) (sclHigh bus p tpp d) - tpp| ≤ p := by
  have hhalf : p / 2 ≤ p := by omega
  cases bus with
  | pureI3C =>
    simp only [sclLow, sclHigh, pureLow]
    split
    · exact (remainderLow_error hp tpp _).trans hhalf
    · rename_i hmin
      rw [show pureHigh p tpp d = pureHighFromDuty p tpp d from if_neg hmin]
      exact splitLow_error hp tpp (pureIdealHigh tpp d)
  | mixed => exact (remainderLow_error hp tpp (mixedHigh p)).trans hhalf

/-- Settles O30: the correction brings the error of the roundings down to half a period. -/
theorem realisedPeriodWithinHalfCycle : Obligations.RealisedPeriodWithinHalfCycle := by
  intro s bus clk f3 f2 duty c P Tpp hans hp htpp
  obtain ⟨hvalid, hfit, rfl⟩ := answersRecord_iff.mp hans
  obtain rfl := (roundsTo_period_iff hvalid.clk_ne).mp hp
  obtain rfl := (roundsTo_period_iff hvalid.f3_ne).mp htpp
  rw [Counts.written_L hfit, Counts.written_H hfit]
  have hP := period10ps_pos hvalid.clk_ne
  exact correctLow_error (sclLow_error bus hP _ (operand duty))

/-! ### Thresholds of the clock -/

/-- A period is at most `k` from a frequency on, by the bound on the quotient. -/
theorem period10ps_le_iff {f : Word} (hf : f ≠ 0) (k : Int) :
    period10ps f ≤ k ↔ 200000000000 + (f.toNat : Int) < 2 * f.toNat * (k + 1) := by
  have h := divRound_lt_iff (a := 100000000000) (m := k + 1) (operand_pos hf)
  rw [← period10ps_of_ne hf, Int.lt_add_one_iff] at h
  exact h

theorem period10ps_le_600_iff {clk : Word} (h : clk ≠ 0) : period10ps clk ≤ 600 ↔ 166527894 ≤ clk.toNat := by
  rw [period10ps_le_iff h]
  omega

theorem flag_ne_zero (pos : Fin 32) : 1#32 <<< pos.val ≠ 0#32 := by
  revert pos
  decide

theorem Counts.written_SDAHoldTime_eq_flag {c : Counts} {prm : Params} {P : Int} :
    (c.written prm P).SDAHoldTime = 1#32 <<< prm.SDA_HOLD_BIT_POS.val ↔ P ≤ 600 :=
  (flag_ne_zero prm.SDA_HOLD_BIT_POS).ite_eq_left_iff

theorem Counts.written_SDAHoldTime_eq_zero {c : Counts} {prm : Params} {P : Int} :
    (c.written prm P).SDAHoldTime = 0 ↔ ¬ P ≤ 600 :=
  (flag_ne_zero prm.SDA_HOLD_BIT_POS).ite_eq_right_iff

/-- Settles O31: the flag is set exactly for a period of at most 600, and that is the clock's threshold. -/
theorem sdaFlagClockThreshold : Obligations.SdaFlagClockThreshold := by
  refine ⟨fun clk => period10ps_le_600_iff, by decide, by decide, ?_⟩
  intro s bus clk f3 f2 duty c hans
  obtain ⟨hvalid, -, rfl⟩ := answersRecord_iff.mp hans
  have hclk := period10ps_le_600_iff hvalid.clk_ne
  exact ⟨Counts.written_SDAHoldTime_eq_flag.trans hclk,
    Counts.written_SDAHoldTime_eq_zero.trans (hclk.not.trans not_le)⟩

/-- The bus-idle count fits exactly for these periods (R99). -/
theorem oneUs_fits_iff {P : Int} (hP : 0 < P) : 0 ≤ oneUs P ∧ oneUs P ≤ 255 ↔ 389 ≤ P ∧ P ≤ 66666 := by
  have hlow := divRound_lt_iff (a := 100000) (m := 2) hP
  have hhigh := divRound_lt_iff (a := 100000) (m := 258) hP
  simp only [oneUs, ONE_US, IDLE_OFFSET]
  omega

/-- Those periods are the periods of exactly these clocks (R99). -/
theorem period10ps_idleRange_iff {clk : Word} (h : clk ≠ 0) :
    389 ≤ period10ps clk ∧ period10ps clk ≤ 66666 ↔ 1500004 ≤ clk.toNat ∧ clk.toNat ≤ 257400257 := by
  have hlow := period10ps_le_iff h 388
  have hhigh := period10ps_le_iff h 66666
  omega

/-- Settles O32: the count's range is a range of periods, and that a range of clocks; an I3C frequency of
1 Hz at 48 MHz has a low count that does not fit. -/
theorem idleCountClockRange : Obligations.IdleCountClockRange := by
  refine ⟨fun clk h => ⟨oneUs_fits_iff (period10ps_pos h), period10ps_idleRange_iff h⟩, ?_, ?_, ?_⟩
  · intro s bus clk f3 f2 duty c hans
    obtain ⟨hvalid, ⟨-, -, -, -, -, hidle⟩, -⟩ := answersRecord_iff.mp hans
    exact (period10ps_idleRange_iff hvalid.clk_ne).mp
      ((oneUs_fits_iff (period10ps_pos hvalid.clk_ne)).mp hidle)
  · exact ⟨State.reset, 48000000, 1, 0, 50, by decide, by decide, by decide, by decide, by decide, rfl⟩
  · intro s s' bus bus' clk f3 f2 duty f3' f2' duty' c c' hans hans'
    obtain ⟨-, -, rfl⟩ := answersRecord_iff.mp hans
    obtain ⟨-, -, rfl⟩ := answersRecord_iff.mp hans'
    refine ⟨rfl, ?_⟩
    rintro hprm rfl rfl
    rw [hprm]
    rfl

/-! ### Single scenarios -/

/-- The counts of the source's scenario 1: of the parameters only the start-condition-setup minimum has a part,
in the bus-free count (R88). -/
theorem requestCounts_scenario1 (prm : Params) (f2 : Word) :
    requestCounts prm .pureI3C 48000000 12500000 f2 50 =
      ⟨1, 1, 18, 0, divRound (prm.TCAS_MIN + 35000) 4166 + 1, 46⟩ := by
  have hP : period10ps 48000000 = 2083 := by decide
  have hTpp : period10ps 12500000 = 8000 := by decide
  have hH : pureHigh 2083 8000 50 = 1 := by decide
  have hL : correctLow 2083 8000 1 (pureLow 2083 8000 50) = 1 := by decide
  have hODL : odLowPure 2083 8000 1 = 18 := by decide
  have hIDLE : oneUs 2083 = 46 := by decide
  have hduty : operand 50 = 50 := rfl
  simp only [requestCounts, ctrlCounts, sclHigh, sclLow, odLow, i2cHigh, busFree, hP, hTpp, hduty, hH, hL, hODL,
    hIDLE]
  rfl

/-- The range is that of a bus-free count of 10. -/
theorem divRound_tcas_iff {n : Nat} : divRound (n + 35000) 4166 + 1 = 10 ↔ 411 ≤ n ∧ n ≤ 4576 := by
  unfold divRound
  omega

theorem ctrlValid_scenario1 (f2 : Word) : CtrlValid .pureI3C 48000000 12500000 f2 50 :=
  ⟨by decide, by decide, by decide, nofun, nofun⟩

/-- Settles O33: the request is valid, five of its counts fit whatever the parameters are, and the sixth is 10 exactly
in the range. -/
theorem scenarioOneNeedsTcasInRange : Obligations.ScenarioOneNeedsTcasInRange := by
  intro s f2
  rw [exec_ctrl_eq_ok_iff, ctrlResult_eq_ok_iff, requestCounts_scenario1, ← divRound_tcas_iff]
  constructor
  · intro hfree
    rw [hfree]
    exact ⟨ctrlValid_scenario1 f2, by decide, rfl⟩
  · rintro ⟨-, hfit, hrecord⟩
    have hfree := Counts.written_FREE hfit s.params (period10ps 48000000)
    rw [← hrecord] at hfree
    exact hfree.symm

theorem answersRecord_pure_32MHz :
    AnswersRecord (.computeCtrl .pureI3C 32000000 10000000 0 50) State.reset ⟨0, 1, 12, 0, 7, 30, 0⟩ :=
  ⟨_, rfl, rfl, rfl⟩

theorem answersRecord_pure_32MHz_oneHighCycle :
    AnswersRecord (.computeCtrl .pureI3C 32000000 12500000 0 50) State.reset ⟨1, 0, 12, 0, 7, 30, 0⟩ :=
  ⟨_, rfl, rfl, rfl⟩

theorem answersRecord_mixed_32MHz :
    AnswersRecord (.computeCtrl .mixed 32000000 12500000 400000 50) State.reset ⟨0, 1, 41, 37, 27, 30, 0⟩ :=
  ⟨_, rfl, rfl, rfl⟩

theorem answersRecord_mixed_48MHz :
    AnswersRecord (.computeCtrl .mixed 48000000 12500000 1000000 50) State.reset ⟨2, 0, 23, 23, 20, 46, 0⟩ :=
  ⟨_, rfl, rfl, rfl⟩

/-- Settles O34: one cycle of 32 MHz, or of 48 MHz, is shorter than the minimum high time, and two cycles of 32 MHz
are longer than the maximum; the counts of these four requests show every clause. -/
theorem notGuaranteedOfOkResponses : Obligations.NotGuaranteedOfOkResponses := by
  refine ⟨?_, ⟨_, _, _, _, _, _, answersRecord_mixed_32MHz, by decide⟩,
    ⟨_, _, _, _, _, _, answersRecord_mixed_48MHz, by decide, by decide⟩, ?_,
    ⟨_, _, _, _, _, _, answersRecord_pure_32MHz, by decide⟩⟩
  · rintro (_ | _)
    · exact ⟨_, _, _, _, _, _, answersRecord_pure_32MHz_oneHighCycle, by decide⟩
    · exact ⟨_, _, _, _, _, _, answersRecord_mixed_48MHz, by decide⟩
  · rintro (_ | _)
    · exact ⟨_, _, _, _, _, _, answersRecord_pure_32MHz, by decide⟩
    · exact ⟨_, _, _, _, _, _, answersRecord_mixed_32MHz, by decide⟩

end Sys2Proof.Machine
end

section
/-! PROOFS. COMPUTE_TGT: one equation for each of its four answers, by the clock, its count and the gate parameter;
each statement selects among them. -/

namespace Sys2Proof.Machine

/-- Nothing is a rounded quotient by a zero word. -/
theorem RoundsTo.word_ne_zero {a q : Int} {f : Word} (h : RoundsTo a f.toNat q) : f ≠ 0 := by
  rintro rfl
  obtain ⟨hlow, hhigh⟩ := h
  have hzero : ((0 : Word).toNat : Int) = 0 := rfl
  rw [hzero] at hlow hhigh
  omega

/-- The count of a clock fits an 8-bit field: the test of R105. -/
abbrev CountFits (clk : Word) : Prop :=
  0 ≤ oneUs (period10ps clk) ∧ oneUs (period10ps clk) ≤ 255

theorem inFieldRange_count_iff {clk : Word} : inFieldRange (oneUs (period10ps clk)) = true ↔ CountFits clk := by
  simp [inFieldRange]

/-- A non-zero clock passes both zero checks, since its period is not zero either (R66, R102). -/
theorem validateTarget_of_ne {clk : Word} (h : clk ≠ 0) : validateTarget clk = .ok () :=
  (if_neg h).trans (if_neg (period10ps_pos h).ne')

/-! ### The result of a non-zero clock -/

section
variable {clk : Word} (hclk : clk ≠ 0) (prm : Params) (free : Byte)
include hclk

theorem targetResult_of_fit (hfit : CountFits clk) :
    targetResult prm free clk = .ok ⟨BitVec.ofNat 8 (oneUs (period10ps clk)).toNat⟩ := by
  simp [targetResult, validateTarget_of_ne hclk, inFieldRange_count_iff.mpr hfit, countField_of_fit hfit, bind,
    Except.bind, pure, Except.pure]

/-- Outside the range of a field the gate parameter decides (R105). -/
theorem targetResult_of_not_fit (hfit : ¬ CountFits clk) :
    targetResult prm free clk =
      if prm.TARGET_RANGE_GATE = true then .error .fieldOutOfRange else .ok ⟨free⟩ := by
  simp [targetResult, validateTarget_of_ne hclk, mt inFieldRange_count_iff.mp hfit, bind, Except.bind, pure,
    Except.pure, throw, throwThe, MonadExceptOf.throw]

/-- A draw is taken exactly when the gate is off and the count does not fit (R105). -/
theorem targetDraws_iff : targetDraws prm clk = true ↔ prm.TARGET_RANGE_GATE = false ∧ ¬ CountFits clk := by
  rw [← inFieldRange_count_iff, targetDraws, decide_eq_true hclk]
  simp

end

/-! ### The four answers -/

/-- An operation that answers the InvalidTiming response does not answer OK. -/
theorem not_ok_of_answersError {i : Instr} {s : State} (h : AnswersError i s) :
    ¬ ∃ t, exec i s = .next t ∧ t.status = some .ok := by
  rintro ⟨t, ht, hok⟩
  obtain rfl := Host.Outcome.next.inj (h.symm.trans ht)
  simp at hok

section
variable (b : Bool) {clk : Word} (f3 f2 duty : Word) (s : State)

/-- Without a draw, the operation responds with its result. -/
theorem exec_tgt_of_not_draws (h : ¬ targetDraws s.params clk = true) :
    exec (.computeTgt b clk f3 f2 duty) s =
      .next (s.respond ((targetResult s.params (Config.freeByte s.draws) clk).map .target)) :=
  if_neg h

theorem exec_tgt_of_draws (h : targetDraws s.params clk = true) :
    exec (.computeTgt b clk f3 f2 duty) s =
      .next (s.draw.respond ((targetResult s.params (Config.freeByte s.draws) clk).map .target)) :=
  if_pos h

/-- A zero clock is InvalidTiming, whatever the gate (R102). -/
theorem answersError_tgt_zero : AnswersError (.computeTgt b 0 f3 f2 duty) s := rfl

/-- A count that fits is answered, whatever the gate (R104). -/
theorem exec_tgt_of_fit (hclk : clk ≠ 0) (hfit : CountFits clk) :
    exec (.computeTgt b clk f3 f2 duty) s =
      .next { s with
        status := some .ok
        cfg := some (.target { BusAvailableDuration := BitVec.ofNat 8 (oneUs (period10ps clk)).toNat }) } := by
  have hdraw : ¬ targetDraws s.params clk = true := fun h => ((targetDraws_iff hclk _).mp h).2 hfit
  rw [exec_tgt_of_not_draws b f3 f2 duty s hdraw, targetResult_of_fit hclk _ _ hfit]
  rfl

/-- With the gate on, a count that does not fit is InvalidTiming (R105). -/
theorem answersError_tgt_of_gated (hclk : clk ≠ 0) (hfit : ¬ CountFits clk)
    (hgate : s.params.TARGET_RANGE_GATE = true) : AnswersError (.computeTgt b clk f3 f2 duty) s := by
  have hdraw : ¬ targetDraws s.params clk = true := by simp [targetDraws_iff hclk, hgate]
  rw [AnswersError, exec_tgt_of_not_draws b f3 f2 duty s hdraw, targetResult_of_not_fit hclk _ _ hfit,
    if_pos hgate]
  rfl

/-- With the gate off, the free value is answered in its place and a draw is counted (R105; log entry 6). -/
theorem exec_tgt_of_ungated (hclk : clk ≠ 0) (hfit : ¬ CountFits clk)
    (hgate : s.params.TARGET_RANGE_GATE = false) :
    exec (.computeTgt b clk f3 f2 duty) s =
      .next { s with
        status := some .ok
        cfg := some (.target { BusAvailableDuration := Config.freeByte s.draws })
        draws := s.draws + 1 } := by
  have hdraw : targetDraws s.params clk = true := (targetDraws_iff hclk _).mpr ⟨hgate, hfit⟩
  rw [exec_tgt_of_draws b f3 f2 duty s hdraw, targetResult_of_not_fit hclk _ _ hfit,
    if_neg (by simp [hgate])]
  rfl

/-- With the gate on, OK is answered for exactly this range of clocks (R105). -/
theorem exec_tgt_ok_iff_of_gated (hgate : s.params.TARGET_RANGE_GATE = true) :
    (∃ t, exec (.computeTgt b clk f3 f2 duty) s = .next t ∧ t.status = some .ok) ↔
      1500004 ≤ clk.toNat ∧ clk.toNat ≤ 257400257 := by
  by_cases hclk : clk = 0
  · subst hclk
    exact iff_of_false (not_ok_of_answersError (answersError_tgt_zero b f3 f2 duty s)) (by decide)
  · rw [← period10ps_idleRange_iff hclk, ← oneUs_fits_iff (period10ps_pos hclk)]
    by_cases hfit : CountFits clk
    · exact iff_of_true ⟨_, exec_tgt_of_fit b f3 f2 duty s hclk hfit, rfl⟩ hfit
    · exact iff_of_false (not_ok_of_answersError (answersError_tgt_of_gated b f3 f2 duty s hclk hfit hgate)) hfit

end

/-- Settles O35: the relations determine the clock's period and the count, and the count and the gate select the
answer. -/
theorem targetAnswersByCountAndGate : Obligations.TargetAnswersByCountAndGate := by
  intro s b clk f3 f2 duty
  refine ⟨?_, ?_, exec_tgt_ok_iff_of_gated b f3 f2 duty s⟩
  · rintro rfl
    exact answersError_tgt_zero b f3 f2 duty s
  · intro P A hP hA
    have hclk := hP.word_ne_zero
    obtain rfl := (roundsTo_period_iff hclk).mp hP
    obtain rfl : A = oneUs (period10ps clk) := (roundsTo_add_iff (period10ps_pos hclk)).mp hA
    refine ⟨fun h0 h255 => exec_tgt_of_fit b f3 f2 duty s hclk ⟨h0, h255⟩, fun hout => ?_, fun hout => ?_⟩
    · exact answersError_tgt_of_gated b f3 f2 duty s hclk (by omega)
    · exact exec_tgt_of_ungated b f3 f2 duty s hclk (by omega)

/-- Settles O37: a record has a bus-idle count that fits, and the target's count is the same one. -/
theorem targetCountIsControllerIdle : Obligations.TargetCountIsControllerIdle := by
  intro s bus b clk f3 f2 duty f3' f2' duty' c hans
  obtain ⟨hvalid, ⟨-, -, -, -, -, hidle⟩, rfl⟩ := answersRecord_iff.mp hans
  exact exec_tgt_of_fit b f3' f2' duty' s hvalid.clk_ne hidle

/-- Settles O36: no other word is an argument of the result or of the draw (R103). -/
theorem targetReadsOnlyTheClock : Obligations.TargetReadsOnlyTheClock :=
  fun _ _ _ _ _ _ _ _ _ _ => rfl

end Sys2Proof.Machine
end

section
/-! PROOFS. Errors: an instruction that does not answer OK gives the InvalidTiming response and nothing else
(R106, R109). -/

namespace Sys2Proof.Machine

/-- Every instruction answers OK or the InvalidTiming response. On COMPUTE_TGT the one answer that draws, an
ungated count that does not fit, is an OK one, so that no error leaves a draw behind (R105). -/
theorem ok_or_answersError (i : Instr) (s : State) :
    (∃ t, exec i s = .next t ∧ t.status = some .ok) ∨ AnswersError i s := by
  cases i with
  | computeCtrl bus clk f3 f2 duty =>
    rcases exec_ctrl_cases bus clk f3 f2 duty s with ⟨r, -, hx⟩ | ⟨e, -, hx⟩
    · exact .inl ⟨_, hx, rfl⟩
    · exact .inr hx
  | computeTgt b clk f3 f2 duty =>
    by_cases hclk : clk = 0
    · subst hclk
      exact .inr (answersError_tgt_zero b f3 f2 duty s)
    by_cases hfit : CountFits clk
    · exact .inl ⟨_, exec_tgt_of_fit b f3 f2 duty s hclk hfit, rfl⟩
    cases hgate : s.params.TARGET_RANGE_GATE with
    | true => exact .inr (answersError_tgt_of_gated b f3 f2 duty s hclk hfit hgate)
    | false => exact .inl ⟨_, exec_tgt_of_ungated b f3 f2 duty s hclk hfit hgate, rfl⟩

/-- Settles O39: a next state with STATUS = ERROR is not that of an OK answer, so it is that of the InvalidTiming
response. -/
theorem errorResponseCarriesNothing : Obligations.ErrorResponseCarriesNothing := by
  intro i s t hx herr
  rcases ok_or_answersError i s with ⟨t', hx', hok⟩ | hx'
  · obtain rfl := Host.Outcome.next.inj (hx.symm.trans hx')
    exact nomatch herr.symm.trans hok
  · exact Host.Outcome.next.inj (hx.symm.trans hx')

end Sys2Proof.Machine
end

section
/-! PROOFS. Reset and hazards: a request always ends in one whole response, no operation reads the response that
stands at the output, and a field of *none* cannot be read (R118, R119, R122, R126, R127). -/

namespace Sys2Proof.Machine

/-! ### One request, one response -/

/-- A configuration exactly with OK (R18), said by cases of STATUS. -/
theorem Response.ok_or_error {r : Response} (h : r.status = .ok ↔ r.cfg.isSome = true) :
    (r.status = .ok ∧ r.cfg ≠ none) ∨ (r.status = .error ∧ r.cfg = none) := by
  obtain ⟨st, cfg⟩ := r
  cases st with
  | ok => exact .inl ⟨rfl, Option.isSome_iff_ne_none.mp (h.mp rfl)⟩
  | error => exact .inr ⟨rfl, Option.not_isSome_iff_eq_none.mp fun hc => nomatch h.mpr hc⟩

/-- A step whose first event is a request refuses it for a reserved bit, or delivers a whole response. -/
theorem step_of_request_cases {s : State} {host : Nat} {q : Request} {rest : List Event}
    (he : s.events = .request host q :: rest) :
    (q.CMD.extractLsb 31 2 ≠ 0 ∧ step s = .refused .reservedCommandBits) ∨
    (∃ n r, step s = .next ((s.withEvents rest).served n host r) ∧
      ((r.status = .ok ∧ r.cfg ≠ none) ∨ (r.status = .error ∧ r.cfg = none))) := by
  rw [step_of_request he]
  rcases serveRequest_cases host q (s.withEvents rest) with hrefused | ⟨-, n, r, -, -, hr, hs⟩
  · exact .inl hrefused
  · exact .inr ⟨n, r, hs, Response.ok_or_error hr⟩

/-- Settles O7: a command word below 4 has no reserved bit, so the step delivers. -/
theorem wellFormedRequestGetsOneResponse : Obligations.WellFormedRequestGetsOneResponse := by
  intro s host q rest he hq
  rcases step_of_request_cases he with ⟨hbits, -⟩ | ⟨n, r, hs, hr⟩
  · exact absurd ((reservedBits_eq_zero_iff q.CMD).mpr hq) hbits
  · exact ⟨_, r, hs, rfl, rfl, hr⟩

/-- Settles O10: the run over requests, by induction on their list. -/
theorem runDeliversEachResponse : Obligations.RunDeliversEachResponse :=
  fun s reqs => runEvents_requests reqs s

/-! ### The output is written and never read -/

/-- Ending an operation writes the whole response over whatever stood at the output. -/
theorem respond_over_output (s : State) (st : Option Status) (cfg : Option TimingConfig)
    (r : Except Cause TimingConfig) : State.respond { s with status := st, cfg := cfg } r = s.respond r := by
  cases r <;> rfl

/-- No operation reads the response at the output (R13; log entry 19). -/
theorem exec_over_output (j : Instr) (s : State) (st : Option Status) (cfg : Option TimingConfig) :
    exec j { s with status := st, cfg := cfg } = exec j s := by
  cases j with
  | computeCtrl bus clk f3 f2 duty => exact congrArg Host.Outcome.next (respond_over_output s st cfg _)
  | computeTgt b clk f3 f2 duty =>
    by_cases hdraw : targetDraws s.params clk = true
    · rw [exec_tgt_of_draws b f3 f2 duty s hdraw]
      exact Eq.trans (exec_tgt_of_draws b f3 f2 duty _ hdraw)
        (congrArg Host.Outcome.next (respond_over_output s.draw st cfg _))
    · rw [exec_tgt_of_not_draws b f3 f2 duty s hdraw]
      exact Eq.trans (exec_tgt_of_not_draws b f3 f2 duty _ hdraw)
        (congrArg Host.Outcome.next (respond_over_output s st cfg _))

theorem step_reset {s : State} {rest : List Event} (he : s.events = .reset :: rest) :
    step s = .next (s.withEvents rest).resetBlock := by
  simp [step, he, serveEvent]

/-- Settles O9: an error and a reset change the output alone, which no operation reads. -/
theorem errorAndResetLeaveNothingBehind : Obligations.ErrorAndResetLeaveNothingBehind := by
  refine ⟨?_, ?_, fun s rest he => step_reset he⟩
  · intro i j s t hx herr
    rw [errorResponseCarriesNothing i s t hx herr]
    exact exec_over_output j s (some .error) none
  · intro j s
    exact exec_over_output j s none none

/-! ### Reading a field of none -/

theorem readResponse_of_cfg_none {f : CfgField} {r : Response} (h : r.cfg = none) :
    readResponse f (some r) = .error .readOfNoneConfiguration := by
  simp [readResponse, h]

/-- A read that refers to a response without a configuration faults (R122; log entry 18). -/
theorem step_read_of_cfg_none {s : State} {host : Nat} {f : CfgField} {rest : List Event} {r : Response}
    (he : s.events = .read host f :: rest) (hl : lastResponse host s.delivered = some r)
    (hc : r.cfg = none) : step s = .fault .readOfNoneConfiguration :=
  step_read_of_error he (hl ▸ readResponse_of_cfg_none hc)

/-- Under the invariant a host's last response is consistent, as every delivered one is. -/
theorem State.Inv.lastResponse_consistent {s : State} (h : s.Inv) {host : Nat} {r : Response}
    (hl : lastResponse host s.delivered = some r) : r.consistent s.params = true := by
  obtain ⟨-, -, hdel, -⟩ := h
  exact hdel _ (lastResponse_mem hl)

/-- Settles O40: an ERROR response has no configuration, under the invariant or right after the step that
delivers it. -/
theorem readOfErrorResponseFaults : Obligations.ReadOfErrorResponseFaults := by
  refine ⟨fun s host f rest r => step_read_of_cfg_none, ?_, ?_⟩
  · intro s host f rest r hinv he hl herr
    exact step_read_of_cfg_none he hl (Response.cfg_none_of_error (hinv.lastResponse_consistent hl) herr)
  · intro s t host q f rest he hst herr
    rcases step_of_request_cases he with ⟨-, hs⟩ | ⟨n, r, hs, hr⟩
    · exact nomatch hs.symm.trans hst
    · obtain rfl := Host.Outcome.next.inj (hs.symm.trans hst)
      rcases hr with ⟨hok, -⟩ | ⟨-, hnone⟩
      · exact nomatch hok.symm.trans (Option.some.inj herr)
      · exact step_read_of_cfg_none rfl (lastResponse_append_self host s.delivered r) hnone

end Sys2Proof.Machine
end
